-- ==== Sys2Proof/Word.lean ====
section
/-! DEFINITION. The word, symbol and node types of the block: their widths are those of spec/00_scope.md R13 and
spec/10_state.md R56. -/

namespace Sys2Proof

/-- A host register, a command word, a count or a node weight: 32 bits (R13 `COUNT_W`, R31, R110). -/
abbrev Word := BitVec 32

/-- A symbol, one byte value 0..255 (R13 `SYM_W`, R113). -/
abbrev Symbol := BitVec 8

/-- The index of a node record, 0..510 (R13 `NODE_MAX`, R56). -/
abbrev NodeIdx := Fin 511

/-- A 9-bit node index or NULL (R13 `NULL`, R24): `none` is NULL, which names no node. -/
abbrev NodeRef := Option NodeIdx

/-- One node record, the source's tagged variant (R56). There is no parent pointer (R262). -/
inductive NodeRec where
  /-- `Leaf(sym, weight)`: the symbol and its count. -/
  | leaf (sym : Symbol) (weight : Word)
  /-- `Internal(weight, left, right)`: left is edge label 0, right is edge label 1 (R178). -/
  | internal (weight : Word) (left right : NodeRef)
deriving DecidableEq, Repr, Inhabited

end Sys2Proof
end

