-- ==== Sys2Proof/Syntax.lean ====
section
/-! DEFINITION. The commands of the block, the ONE inductive of this file: one constructor for each row of
spec/opcode_table.json (spec/30_encoding.md R116). An operand's type is exactly the field its format carries (R112). -/

namespace Sys2Proof

/-- A command of the block, decoded. -/
inductive Instr where
  /-- NOP, format N (R141). -/
  | nop
  /-- CLEAR, format N (R142). -/
  | clear
  /-- TALLY_BYTE s, format S (R151). -/
  | tallyByte (s : Symbol)
  /-- TALLY_ABORT, format N (R157). -/
  | tallyAbort
  /-- BUILD, format N (R171). -/
  | build
  /-- CODEWORD_OF s, format S (R212). -/
  | codewordOf (s : Symbol)
  /-- ENCODE_SYM s, format S (R221). -/
  | encodeSym (s : Symbol)
  /-- SYMBOL_OF, format N: its operand is in CWIN (R114, R229). -/
  | symbolOf
  /-- DECODE_BIT b, format B (R238). -/
  | decodeBit (b : Bool)
  /-- DECODE_FLUSH, format N (R244). -/
  | decodeFlush
  /-- SIZES, format N (R248). -/
  | sizes
  /-- NODE_READ i, format I (R261). -/
  | nodeRead (i : BitVec 9)
deriving DecidableEq, Repr

end Sys2Proof
end

