-- ==== Sys2Proof/WellFormed.lean ====
section
/-! DEFINITION. The mnemonics and operand formats of spec/30_encoding.md R112 and R116, the well-formedness of a decoded
command, and the check the assembler makes of a WRITTEN command (R121): an operand where the format has one and none
where it has none, and in the format's range. An ill-formed written command is an assembly error, not an encoding. -/

namespace Sys2Proof

/-- The operand formats of R112. -/
inductive Format where
  /-- `N`: no operand. -/
  | none
  /-- `S`: an 8-bit symbol in ARG[7:0]. -/
  | symbol
  /-- `B`: one code bit in ARG[0]. -/
  | bit
  /-- `I`: a 9-bit node index in ARG[8:0]. -/
  | index
deriving DecidableEq, Repr

/-- How many ARG bits, from bit 0 up, carry the operand (R112); every other ARG bit must be 0. -/
def Format.operandBits : Format → Nat
  | .none => 0
  | .symbol => 8
  | .bit => 1
  | .index => 9

/-- The rows of the opcode map, by name (R116). -/
inductive Mnemonic where
  | nop | clear | tallyByte | tallyAbort | build | codewordOf | encodeSym | symbolOf | decodeBit | decodeFlush | sizes
  | nodeRead
deriving DecidableEq, Repr

/-- The format column of R116. -/
def Mnemonic.format : Mnemonic → Format
  | .nop | .clear | .tallyAbort | .build | .symbolOf | .decodeFlush | .sizes => .none
  | .tallyByte | .codewordOf | .encodeSym => .symbol
  | .decodeBit => .bit
  | .nodeRead => .index

/-- The row a command belongs to. -/
def Instr.mnemonic : Instr → Mnemonic
  | .nop => .nop
  | .clear => .clear
  | .tallyByte _ => .tallyByte
  | .tallyAbort => .tallyAbort
  | .build => .build
  | .codewordOf _ => .codewordOf
  | .encodeSym _ => .encodeSym
  | .symbolOf => .symbolOf
  | .decodeBit _ => .decodeBit
  | .decodeFlush => .decodeFlush
  | .sizes => .sizes
  | .nodeRead _ => .nodeRead

/-- A command's operand as the unsigned integer its ARG field holds (R113); 0 where the format has none. -/
def Instr.operand : Instr → Nat
  | .tallyByte s | .codewordOf s | .encodeSym s => s.toNat
  | .decodeBit b => b.toNat
  | .nodeRead i => i.toNat
  | .nop | .clear | .tallyAbort | .build | .symbolOf | .decodeFlush | .sizes => 0

/-- A decoded command is well formed when its operand fits its format (R112). The operand types make this hold of
every command, so nothing downstream carries it as a hypothesis. -/
abbrev Instr.WellFormed (i : Instr) : Prop := i.operand < 2 ^ i.mnemonic.format.operandBits

/-- A command as a host program writes it: a mnemonic and, perhaps, an integer operand (R121). -/
structure Written where
  mnemonic : Mnemonic
  operand : Option Nat
deriving DecidableEq, Repr

/-- What is wrong with a written command. -/
inductive WrittenError where
  /-- The format has an operand and none is written. -/
  | operandMissing
  /-- The format has no operand and one is written. -/
  | operandUnexpected
  /-- "An out-of-range operand is an assembly error, not an encoding" (R121). -/
  | operandOutOfRange
deriving DecidableEq, Repr

/-- The command a mnemonic and an operand value name; the value is taken modulo the operand field's size, and
`Written.check` admits only values that fit. -/
def Mnemonic.withOperand : Mnemonic → Nat → Instr
  | .nop, _ => .nop
  | .clear, _ => .clear
  | .tallyByte, n => .tallyByte (BitVec.ofNat 8 n)
  | .tallyAbort, _ => .tallyAbort
  | .build, _ => .build
  | .codewordOf, n => .codewordOf (BitVec.ofNat 8 n)
  | .encodeSym, n => .encodeSym (BitVec.ofNat 8 n)
  | .symbolOf, _ => .symbolOf
  | .decodeBit, n => .decodeBit (n.testBit 0)
  | .decodeFlush, _ => .decodeFlush
  | .sizes, _ => .sizes
  | .nodeRead, n => .nodeRead (BitVec.ofNat 9 n)

/-- The assembler's check of a written command (R121). -/
def Written.check (c : Written) : Except WrittenError Instr :=
  match c.mnemonic.format, c.operand with
  | .none, Option.none => .ok (c.mnemonic.withOperand 0)
  | .none, some _ => .error .operandUnexpected
  | _, Option.none => .error .operandMissing
  | f, some n => if n < 2 ^ f.operandBits then .ok (c.mnemonic.withOperand n) else .error .operandOutOfRange

end Sys2Proof
end

