-- ==== Sys2Proof/Decode.lean ====
section
/-! DEFINITION. The opcode map of spec/30_encoding.md R116 as a list of rows, the decoder (R120: total, an illegal word
is rejected by name, R117), the encoder written from the same rows (R122 `enc`), and the host's reading of a table
word. -/

namespace Sys2Proof

/-- One row of the opcode map: a word `w` selects it when `(w AND mask) = match` (R116). -/
structure OpRow where
  mnemonic : Mnemonic
  /-- The row's `match` column. -/
  pattern : Word
  /-- The row's `mask` column. -/
  mask : Word
deriving DecidableEq, Repr

/-- The row of each mnemonic (R116). -/
def Mnemonic.row : Mnemonic → OpRow
  | .nop => ⟨.nop, 0x00000000, 0xFFFFFFFF⟩
  | .clear => ⟨.clear, 0x01000000, 0xFFFFFFFF⟩
  | .tallyByte => ⟨.tallyByte, 0x10000000, 0xFFFFFF00⟩
  | .tallyAbort => ⟨.tallyAbort, 0x11000000, 0xFFFFFFFF⟩
  | .build => ⟨.build, 0x20000000, 0xFFFFFFFF⟩
  | .codewordOf => ⟨.codewordOf, 0x30000000, 0xFFFFFF00⟩
  | .encodeSym => ⟨.encodeSym, 0x31000000, 0xFFFFFF00⟩
  | .symbolOf => ⟨.symbolOf, 0x38000000, 0xFFFFFFFF⟩
  | .decodeBit => ⟨.decodeBit, 0x39000000, 0xFFFFFFFE⟩
  | .decodeFlush => ⟨.decodeFlush, 0x3A000000, 0xFFFFFFFF⟩
  | .sizes => ⟨.sizes, 0x40000000, 0xFFFFFFFF⟩
  | .nodeRead => ⟨.nodeRead, 0x50000000, 0xFFFFFE00⟩

/-- The opcode map, in the table's order (R116). -/
def opcodeMap : List OpRow :=
  [Mnemonic.nop.row, Mnemonic.clear.row, Mnemonic.tallyByte.row, Mnemonic.tallyAbort.row, Mnemonic.build.row,
   Mnemonic.codewordOf.row, Mnemonic.encodeSym.row, Mnemonic.symbolOf.row, Mnemonic.decodeBit.row,
   Mnemonic.decodeFlush.row, Mnemonic.sizes.row, Mnemonic.nodeRead.row]

/-- `(w AND row.mask) = row.match` (R116). -/
def OpRow.selects (r : OpRow) (w : Word) : Bool := (w &&& r.mask) == r.pattern

/-- The fields of a command word (R111). -/
def opcField (w : Word) : BitVec 8 := w.extractLsb' 24 8
/-- RSV, bits [23:16] (R111). -/
def rsvField (w : Word) : BitVec 8 := w.extractLsb' 16 8
/-- ARG, bits [15:0] (R111). -/
def argField (w : Word) : BitVec 16 := w.extractLsb' 0 16

/-- The symbol operand `s = w[7:0]` (R113). -/
def symbolOperand (w : Word) : Symbol := w.extractLsb' 0 8
/-- The bit operand `b = w[0]` (R113). -/
def bitOperand (w : Word) : Bool := w.getLsbD 0
/-- The index operand `i = w[8:0]` (R113). -/
def indexOperand (w : Word) : BitVec 9 := w.extractLsb' 0 9

/-- The command a row names, with the operand fields of `w` (R112, R113). -/
def Mnemonic.read : Mnemonic → Word → Instr
  | .nop, _ => .nop
  | .clear, _ => .clear
  | .tallyByte, w => .tallyByte (symbolOperand w)
  | .tallyAbort, _ => .tallyAbort
  | .build, _ => .build
  | .codewordOf, w => .codewordOf (symbolOperand w)
  | .encodeSym, w => .encodeSym (symbolOperand w)
  | .symbolOf, _ => .symbolOf
  | .decodeBit, w => .decodeBit (bitOperand w)
  | .decodeFlush, _ => .decodeFlush
  | .sizes, _ => .sizes
  | .nodeRead, w => .nodeRead (indexOperand w)

/-- Why a word is illegal (R117 names the three cases). The block itself records nothing about the word (R274). -/
inductive IllegalWord where
  /-- "an OPC value not in the table" -/
  | unknownOpcode
  /-- "a nonzero RSV field" -/
  | reservedField
  /-- "a nonzero ARG bit that the row's format fixes at 0" -/
  | argumentBit
deriving DecidableEq, Repr

/-- The name of what is wrong with a word that selects no row (R117). -/
def illegalReason (w : Word) : IllegalWord :=
  if opcodeMap.all (fun r => opcField r.pattern != opcField w) then .unknownOpcode
  else if rsvField w != 0 then .reservedField
  else .argumentBit

/-- The decoder (R120): the one row the word selects, with its operands, or the word is illegal (R117). -/
def decode (w : Word) : Except IllegalWord Instr :=
  match opcodeMap.find? (fun r => r.selects w) with
  | some r => .ok (r.mnemonic.read w)
  | none => .error (illegalReason w)

/-- `enc(<command>)`: "the word match OR operand-bits of the command's row" (R122). -/
def encode (i : Instr) : Word := i.mnemonic.row.pattern ||| BitVec.ofNat 32 i.operand

/-- What the decoder reads from a table word of `nbits` bits: every command is one 32-bit word (R110). -/
def decodeTableWord (nbits w : Nat) : Option Instr :=
  match decode (BitVec.ofNat 32 (w % 2 ^ nbits)) with
  | .ok i => some i
  | .error _ => none

end Sys2Proof
end

