-- ==== Sys2Proof/Config.lean ====
section
/-! DEFINITION. What the platform fixes (the OPEN parameter `HUF_BASE`, spec/00_scope.md R13) and the free values the
spec leaves open (spec/93_implementation_defined.md U1, U6). Every opaque constant here has no body: nothing can be
proved about its value. -/

namespace Sys2Proof

/-- Which 128-byte block of the host's address space the window occupies: the platform's choice (R81, U5). -/
opaque Config.hufBlock : Nat

/-- `HUF_BASE`, the base byte address of the window: OPEN, and a multiple of 128 (R81). -/
def Config.hufBase : Nat := 128 * Config.hufBlock

/-- FREE VALUE (log 3). What the n-th draw answers where a host reads a RES register while BUSY = 1 (R89, U1). -/
opaque Config.freeResRead : Nat → Word

/-- FREE VALUE (log 4). What the n-th draw leaves in node record i, which reset and CLEAR leave with no defined value
(R56, R68, R142, U6). -/
opaque Config.freeNode : Nat → Nat → NodeRec

/-- FREE VALUE (log 4). What the n-th draw leaves in the codeword vector of symbol s, which reset and CLEAR leave with
no defined value (R60, R68, R142, U6). -/
opaque Config.freeCodeword : Nat → Nat → BitVec 255

end Sys2Proof
end

