-- ==== Sys2Proof/Machine/State.lean ====
section
/-! DEFINITION. The state of the block (spec/10_state.md R30, and nothing else), beside the model's own record of the
host agent and of the observation; the reasons a step can stop; and the state after reset (R31, R68). Plain data
throughout. -/

namespace Sys2Proof.Machine

/-- The build phase, STATUS.PHASE (R29, R38). The values 5, 6 and 7 are never written (R38), so they have no name. -/
inductive Phase where
  /-- 0: no tree; tallying allowed. -/
  | empty
  /-- 1: BUILD has placed the leaves in the queue. -/
  | seeded
  /-- 2: BUILD has done at least one merge and has not yet fixed the root. -/
  | merging
  /-- 3: BUILD has fixed the root; the code book is not yet derived. -/
  | rooted
  /-- 4: tree and code book complete; codec commands allowed. -/
  | indexed
deriving DecidableEq, Repr

/-- The result code of a command, STATUS.ERR (R39, R271). The codes 7 to 15 are never produced (R280). -/
inductive ErrCode where
  /-- 0: the command succeeded. -/
  | ok
  /-- 1: a codec command outside phase INDEXED (R272). -/
  | uninitialized
  /-- 2: TALLY_ABORT's result in phase EMPTY (R273). -/
  | ioError
  /-- 3: a word that matches no row (R274). -/
  | illegalCmd
  /-- 4: TALLY_BYTE, TALLY_ABORT or BUILD outside phase EMPTY (R276). -/
  | phaseErr
  /-- 5: TALLY_BYTE with ORIG_COUNT = 0xFFFFFFFF (R277). -/
  | countOverflow
  /-- 6: NODE_READ of an index at or above NODE_CNT (R278). -/
  | badIndex
deriving DecidableEq, Repr

/-- The two agents (R15). -/
inductive Agent where
  | host
  | core
deriving DecidableEq, Repr

/-- One line of the host's program (R16, R122): what the host does next. -/
inductive HostLine where
  /-- `MemRead(addr, size)`: a read of `size` bytes at a byte address (R22). -/
  | rd (addr size : Nat)
  /-- `MemWrite(addr, size, v)` (R22). -/
  | wr (addr size : Nat) (v : Word)
  /-- `WAIT`: repeat `RD STATUS` until bit 0 (BUSY) reads 0 (R122). -/
  | wait
  /-- The assertion of reset (R16, R300). `landed` is how many of the port events of a command in progress are already
  on their port when the reset takes effect: the host may reset at any time, so every number is admitted (R301). -/
  | reset (landed : Nat)
deriving DecidableEq, Repr

/-- The RES_* registers, which only the core writes (R31, R33, R53). -/
structure Results where
  /-- RES_SYM (R45). -/
  sym : Word
  /-- RES_LEN (R46). -/
  len : Word
  /-- RES_CW0..RES_CW7, word k holding bits [32k+31:32k] of RES_CW_VEC (R46). -/
  cw : Vector Word 8
  /-- RES_NODE0 (R47). -/
  node0 : Word
  /-- RES_NODE1 (R47). -/
  node1 : Word
  /-- RES_ORIG (R49). -/
  orig : Word
  /-- RES_CBITS_LO (R50). -/
  cbitsLo : Word
  /-- RES_CBITS_HI (R50). -/
  cbitsHi : Word
  /-- RES_CSIZE_LO (R51). -/
  csizeLo : Word
  /-- RES_CSIZE_HI (R51). -/
  csizeHi : Word
  /-- RES_TREE (R52). -/
  tree : Word
deriving DecidableEq, Repr

/-- Every RES_* register at its reset value, 0x00000000 (R31). -/
def Results.zero : Results where
  sym := 0
  len := 0
  cw := Vector.replicate 8 0
  node0 := 0
  node1 := 0
  orig := 0
  cbitsLo := 0
  cbitsHi := 0
  csizeLo := 0
  csizeHi := 0
  tree := 0

/-- The state of the machine. -/
structure State where
  /-- CMD_LATCH: the word of the last CMD write (R63). -/
  cmdLatch : Word
  /-- STATUS.BUSY: a command is latched and not yet complete (R37). -/
  busy : Bool
  /-- PHASE, the build sequencer's phase and STATUS.PHASE (R38, R48). -/
  phase : Phase
  /-- STATUS.ERR: the result code of the most recently completed command (R39). -/
  err : ErrCode
  /-- STATUS.ERRSEEN: sticky error flag (R40). -/
  errSeen : Bool
  /-- CWIN_LEN bits [7:0]; bits [31:8] read 0 and ignore writes (R43). -/
  cwinLen : BitVec 8
  /-- CWIN0..CWIN7, word k holding bits [32k+31:32k] of CWIN_VEC (R44). -/
  cwin : Vector Word 8
  /-- The RES_* registers (R45 to R52). -/
  res : Results
  /-- FREQ[0..255] (R54). -/
  freq : Vector Word 256
  /-- ORIG_COUNT (R55). -/
  origCount : Word
  /-- NODE[0..510] (R56). -/
  node : Vector NodeRec 511
  /-- NODE_CNT, 0 to 511 (R57). -/
  nodeCnt : Fin 512
  /-- INQ[0..510], one bit each: bit i says node i is in the priority queue (R58). -/
  inq : BitVec 511
  /-- ROOT: a node index or NULL (R59). -/
  root : NodeRef
  /-- CB_LEN[0..255]; 0 means the symbol is absent (R60). -/
  cbLen : Vector (BitVec 8) 256
  /-- CB_CW[0..255], the codeword's value right-aligned (R60). -/
  cbCw : Vector (BitVec 255) 256
  /-- COMP_BITS (R61). -/
  compBits : BitVec 64
  /-- WALK_NODE: the decoder's position, a node index or NULL (R62). -/
  walkNode : NodeRef
  /-- WALK_DEAD: the walk has fallen off a null child (R62, R240). -/
  walkDead : Bool
  /-- The bits emitted on ENC_OUT, oldest first: an append-only list of events, part of the observation (R18, R64). -/
  encOut : List Bool
  /-- The symbols emitted on DEC_OUT, oldest first (R18, R64). -/
  decOut : List Symbol
  /-- The values the host's reads returned, oldest first: part of the observation (R18). -/
  reads : List Word
  /-- THE MODEL'S OWN (log 1). The host agent: the program lines it has still to perform, in order (R4, R122). -/
  host : List HostLine
  /-- THE MODEL'S OWN (log 1). Which agent moves next, each time both have a step; empty means the core. -/
  schedule : List Agent
  /-- THE MODEL'S OWN (log 3, log 4). How many free values have been drawn. -/
  freeCtr : Nat
deriving DecidableEq, Repr

/-- Why the machine stops with a fault. -/
inductive Fault where
  /-- Raised by a MERGE or ROOT micro-step of BUILD that would allocate a 512th node. Safe: the node memory holds the
  largest tree, so no state that BUILD reaches raises it (R192, R196, spec/93 K7). -/
  | nodeMemoryFull
  /-- Raised by the INDEX micro-step of BUILD where a path from the root has more than 255 edges, whose length no
  CB_LEN entry can hold. Safe: no tree that BUILD forms has such a path (R192, R197). -/
  | codewordTooLong
  /-- Raised by a host access that is an aligned word outside the window [HUF_BASE, HUF_BASE + 0x7F], an address at which
  this block has nothing (R80, R91). Safe: the machine stops where the access would go to another device. -/
  | outsideWindow
deriving DecidableEq, Repr

/-- Why a step has no meaning in the model. -/
inductive Refusal where
  /-- Raised by an arm of exec whose instruction has no meaning yet. Safe. -/
  | notModelled (mnemonic : String)
  /-- Raised by a host access that is not an aligned 32-bit word: "The model refuses it: the host step has no meaning
  and the run is marked refused" (R83, U2). Safe. -/
  | notAnAlignedWord
deriving DecidableEq, Repr

/-- The state right after reset (R31, R68, R300, R302). NODE and CB_CW, which the spec leaves without a value, hold the
values of log 2; the observation is empty (R68: "a run observed from reset starts with both empty"); no program is
loaded and nothing is scheduled (log 1). -/
def State.reset : State where
  cmdLatch := 0
  busy := false
  phase := .empty
  err := .ok
  errSeen := false
  cwinLen := 0
  cwin := Vector.replicate 8 0
  res := Results.zero
  freq := Vector.replicate 256 0
  origCount := 0
  node := Vector.replicate 511 (.leaf 0 0)
  nodeCnt := 0
  inq := 0
  root := none
  cbLen := Vector.replicate 256 0
  cbCw := Vector.replicate 256 0
  compBits := 0
  walkNode := none
  walkDead := false
  encOut := []
  decOut := []
  reads := []
  host := []
  schedule := []
  freeCtr := 0

end Sys2Proof.Machine
end

