-- ==== Sys2Proof/Machine/Operands.lean ====
section
/-! DEFINITION. Operand and result forms: bit strings and their values (spec/00_scope.md R25), the 256-bit vectors over
eight words (R44, R46, R84), and the words that carry node references (R47, R52). -/

namespace Sys2Proof.Machine

/-- A symbol is an index into the 256-entry arrays (R113). -/
theorem symbol_lt (x : Symbol) : x.toNat < 256 := x.isLt

/-- The 256 symbols in ascending order (R174, R175). -/
def allSymbols : List Symbol := (List.range 256).map (BitVec.ofNat 8)

/-- `val(c)`: the integer whose most significant bit is the first bit `c_1` (R25). -/
def codeVal (c : List Bool) : Nat := c.foldl (fun v b => 2 * v + b.toNat) 0

/-- The bit string of length `len` held right-aligned in `v`: `c_i = v[len - i]`, `c_1` first (R44, R85, R222). -/
def codeBits {w : Nat} (len : Nat) (v : BitVec w) : List Bool :=
  (List.range len).map (fun k => v.getLsbD (len - 1 - k))

/-- `{X7, X6, ..., X0}`: eight words as one vector, word 0 in bits [31:0] (R44). -/
def vecOfWords (x : Vector Word 8) : BitVec 256 :=
  x[7] ++ x[6] ++ x[5] ++ x[4] ++ x[3] ++ x[2] ++ x[1] ++ x[0]

/-- The eight words of a vector, word k holding bits [32k+31:32k] (R44, R46). -/
def wordsOfVec (v : BitVec 256) : Vector Word 8 := Vector.ofFn (fun k => v.extractLsb' (32 * k.val) 32)

/-- CWIN_VEC (R44). -/
def cwinVec (s : State) : BitVec 256 := vecOfWords s.cwin

/-- RES_CW_VEC (R46). -/
def resCwVec (s : State) : BitVec 256 := vecOfWords s.res.cw

/-- The input codeword `c_1 ... c_L` that SYMBOL_OF reads: bits at positions L and above are ignored (R44, R229). -/
def inputCodeword (s : State) : List Bool := codeBits s.cwinLen.toNat (cwinVec s)

/-- A node reference as a 9-bit field: NULL is 0x1FF (R24, R47, R52). -/
def refField : NodeRef → BitVec 9
  | none => 0x1FF
  | some i => BitVec.ofNat 9 i.val

end Sys2Proof.Machine
end

