-- ==== Sys2Proof/Machine/Ops.lean ====
section
/-! DEFINITION. The operations the commands share: the two ways a command ends (spec/40_control.md R140,
spec/60_exceptions.md R275), the accessors of the arrays, the tally, the node memory, the code book entry, the walk,
the output ports, and the return to the reset values (R68, R142, R300). -/

namespace Sys2Proof.Machine

/-! ## How a command ends -/

/-- `finish()`: `STATUS.ERR <- 0; STATUS.BUSY <- 0` (R140). -/
def finish (s : State) : State := { s with err := .ok, busy := false }

/-- `raise Err(code)`: the code is recorded, ERRSEEN set and BUSY cleared, and the command makes no other write (R275).
This is the block's whole of taking an exception: control goes nowhere and nothing is saved (R270), and there is no
return from one (R283). -/
def raise (code : ErrCode) (s : State) : State := { s with err := code, errSeen := true, busy := false }

/-- A command completes (R140). -/
def complete (s : State) : Host.Outcome State Fault Refusal := .next (finish s)

/-- A command ends with an error (R275). -/
def fail (code : ErrCode) (s : State) : Host.Outcome State Fault Refusal := .next (raise code s)

/-- What the core does with a word that matches no row: `raise Err(ILLEGAL_CMD)`, whatever the phase (R117, R274). -/
def illegalCommand (s : State) : Host.Outcome State Fault Refusal := fail .illegalCmd s

/-! ## Accessors of the arrays -/

/-- `FREQ[x]` (R54). -/
def freqOf (s : State) (x : Symbol) : Word := s.freq[x.toNat]'(symbol_lt x)

/-- `CB_LEN[x]` (R60). -/
def cbLenOf (s : State) (x : Symbol) : BitVec 8 := s.cbLen[x.toNat]'(symbol_lt x)

/-- `CB_CW[x]` (R60). -/
def cbCwOf (s : State) (x : Symbol) : BitVec 255 := s.cbCw[x.toNat]'(symbol_lt x)

/-- The weight a node record carries (R24). -/
def nodeWeight : NodeRec → Word
  | .leaf _ w => w
  | .internal w _ _ => w

/-- `isLeaf`, of a record (R24). -/
def nodeIsLeaf : NodeRec → Bool
  | .leaf _ _ => true
  | .internal _ _ _ => false

/-- `W(i)` (R24). -/
def weightOf (s : State) (i : NodeIdx) : Word := nodeWeight s.node[i]

/-- `isLeaf(i)` (R24). -/
def isLeaf (s : State) (i : NodeIdx) : Bool := nodeIsLeaf s.node[i]

/-- FREQ as pairs of a symbol and its count, in ascending symbol order (R54, R175). -/
def freqEntries (s : State) : List (Symbol × Word) := allSymbols.zip s.freq.toList

/-- The symbols with a frequency entry, `FREQ[x] ≥ 1`, in ascending order (R54, R174). -/
def present (s : State) : List Symbol := ((freqEntries s).filter (fun e => e.2 != 0)).map Prod.fst

/-! ## The tally -/

/-- `FREQ[x] <- FREQ[x] + 1; ORIG_COUNT <- ORIG_COUNT + 1` (R151). -/
def countByte (x : Symbol) (s : State) : State :=
  { s with freq := s.freq.set x.toNat (freqOf s x + 1) (symbol_lt x), origCount := s.origCount + 1 }

/-- "tally up to the failure is discarded": every count becomes 0 (R157). -/
def discardTally (s : State) : State := { s with freq := Vector.replicate 256 0, origCount := 0 }

/-! ## The node memory and the queue -/

/-- `NODE[NODE_CNT] <- rec; NODE_CNT <- NODE_CNT + 1`, with the index allocated; `none` where all 511 are in use
(R57, R175, R177). -/
def alloc (rec : NodeRec) (s : State) : Option (NodeIdx × State) :=
  if h : s.nodeCnt.val < 511 then
    some (⟨s.nodeCnt.val, h⟩,
      { s with node := s.node.set s.nodeCnt.val rec h, nodeCnt := ⟨s.nodeCnt.val + 1, by omega⟩ })
  else none

/-- `INQ[i]` (R58). -/
def inQueue (s : State) (i : NodeIdx) : Bool := s.inq.getLsbD i.val

/-- `INQ[i] <- 1` (R175, R177). -/
def enqueue (i : NodeIdx) (s : State) : State := { s with inq := s.inq ||| BitVec.twoPow 511 i.val }

/-- `INQ[i] <- 0` (R172). -/
def dequeue (i : NodeIdx) (s : State) : State := { s with inq := s.inq &&& ~~~(BitVec.twoPow 511 i.val) }

/-- `Q = { i : INQ[i] = 1 }`, in index order (R58, R171). -/
def queue (s : State) : List NodeIdx := (List.finRange 511).filter (fun i => inQueue s i)

/-- `key(i) ≤ key(j)`: the pairs `(W, index)` compare lexicographically, weight first (R24). -/
def keyLe (s : State) (i j : NodeIdx) : Bool :=
  decide ((weightOf s i).toNat < (weightOf s j).toNat) || (weightOf s i == weightOf s j && decide (i.val ≤ j.val))

/-- The member of a list with the least key; `none` of the empty list (R172). -/
def leastKey (s : State) : List NodeIdx → Option NodeIdx
  | [] => none
  | i :: rest =>
    match leastKey s rest with
    | none => some i
    | some j => if keyLe s i j then some i else some j

/-- `popMin()`: the key-least member of Q, removed (R172); `none` where Q is empty, when it is never called. -/
def popMin (s : State) : Option (NodeIdx × State) :=
  match leastKey s (queue s) with
  | none => none
  | some m => some (m, dequeue m s)

/-! ## The code book -/

/-- `for s in 0..255: CB_LEN[s] <- 0` and `COMP_BITS <- 0` (R142, R183). -/
def emptyBook (s : State) : State := { s with cbLen := Vector.replicate 256 0, compBits := 0 }

/-- A leaf reached by the traversal: its symbol, its weight and the edge labels from the root to it, the root's first
(R183: the traversal's `v` is the path's value and its `L` the path's length). -/
structure LeafPath where
  sym : Symbol
  weight : Word
  path : List Bool
deriving DecidableEq, Repr

/-- A leaf seen from the node above it, through the edge labelled `b`. -/
def LeafPath.under (b : Bool) (p : LeafPath) : LeafPath := { p with path := b :: p.path }

/-- What `visit` records at a leaf: its CB entry and its share of COMP_BITS (R183). -/
def recordLeaf (s : State) (p : LeafPath) : State :=
  { s with
    cbLen := s.cbLen.set p.sym.toNat (BitVec.ofNat 8 p.path.length) (symbol_lt p.sym)
    cbCw := s.cbCw.set p.sym.toNat (BitVec.ofNat 255 (codeVal p.path)) (symbol_lt p.sym)
    compBits := s.compBits + p.weight.setWidth 64 * BitVec.ofNat 64 p.path.length }

/-- RES_LEN and RES_CW_VEC receive symbol x's codeword, or zeros where x is absent (R212, R221). -/
def showCodeword (x : Symbol) (s : State) : State :=
  { s with res := { s.res with
      len := (cbLenOf s x).setWidth 32
      cw := wordsOfVec (if cbLenOf s x = 0 then 0 else (cbCwOf s x).setWidth 256) } }

/-- `codeword(x)` as the code book holds it, `c_1` first; empty where x is absent (R60). -/
def bookCodeword (s : State) (x : Symbol) : List Bool := codeBits (cbLenOf s x).toNat (cbCwOf s x)

/-! ## The walk and the ports -/

/-- `WALK_NODE <- ROOT; WALK_DEAD <- 0`: the walk at rest (R62). -/
def restWalk (s : State) : State := { s with walkNode := s.root, walkDead := false }

/-- `emit_enc` of each bit, in order (R23, R222). -/
def emitEnc (bits : List Bool) (s : State) : State := { s with encOut := s.encOut ++ bits }

/-- `emit_dec` of each symbol, in order (R23). -/
def emitDec (syms : List Symbol) (s : State) : State := { s with decOut := s.decOut ++ syms }

/-- `R.RES_SYM <- zext_32(x)` of a found symbol, or the sentinel -1 (R20, R45, R230). -/
def showSymbol (r : Option Symbol) (s : State) : State :=
  { s with res := { s.res with sym := match r with
      | some x => x.setWidth 32
      | none => 0xFFFFFFFF } }

/-! ## The return to the reset values -/

/-- One draw of the free contents of NODE and CB_CW, which the spec leaves with no defined value here (R68, U6). -/
def freeArrays (s : State) : State :=
  { s with
    node := Vector.ofFn (fun i => Config.freeNode s.freeCtr i.val)
    cbCw := Vector.ofFn (fun x => Config.freeCodeword s.freeCtr x.val)
    freeCtr := s.freeCtr + 1 }

/-- The state CLEAR returns to before it finishes: every element at its reset value but CWIN_LEN and CWIN0..CWIN7,
which keep their values; the ports keep their events (R68, R142). CMD_LATCH too takes its reset value (log 6). -/
def clearState (s : State) : State :=
  { freeArrays s with
    cmdLatch := 0
    phase := .empty
    err := .ok
    errSeen := false
    res := Results.zero
    freq := Vector.replicate 256 0
    origCount := 0
    nodeCnt := 0
    inq := 0
    root := none
    cbLen := Vector.replicate 256 0
    compBits := 0
    walkNode := none
    walkDead := false }

/-- What reset leaves: CLEAR's values, and BUSY and the host's input registers at their reset values as well (R300,
R303). The events already on the ports stay (R64, R300). -/
def resetState (s : State) : State :=
  { clearState s with busy := false, cwinLen := 0, cwin := Vector.replicate 8 0 }

end Sys2Proof.Machine
end

