-- ==== Sys2Proof/Machine/Build.lean ====
section
/-! DEFINITION. BUILD (spec/42_build.md R171 to R183): one core step runs one micro-step, the one PHASE and INQ select
(R17, R48, log 7). -/

namespace Sys2Proof.Machine

/-- The body of SEED's loop, for a symbol and its FREQ: a leaf of its count where `FREQ ≥ 1`, put in the queue (R175).
The node memory cannot be full here: at most 256 leaves are seeded from `NODE_CNT = 0` (R196). -/
def seedEntry (s : State) (e : Symbol × Word) : State :=
  if e.2 = 0 then s
  else
    match alloc (.leaf e.1 e.2) s with
    | none => s
    | some (i, t) => enqueue i t

/-- SEED: the leaves in ascending symbol order; `PHASE <- SEEDED` (R174, R175). -/
def seedStep (s : State) : State :=
  { (freqEntries s).foldl seedEntry { s with nodeCnt := 0 } with phase := .seeded }

/-- MERGE, once `a` (removed first) and `b` (removed second) are out of the queue: their parent is allocated, with `b`
left and `a` right, and put in the queue; `PHASE <- MERGING` (R177, R178). -/
def mergeNodes (a b : NodeIdx) (s : State) : Host.Outcome State Fault Refusal :=
  match alloc (.internal (weightOf s a + weightOf s b) (some b) (some a)) s with
  | none => .fault .nodeMemoryFull
  | some (p, t) => .next { enqueue p t with phase := .merging }

/-- ROOT, once the final remaining node `r` is out of the queue: an internal node is the root; a lone leaf goes beneath
a synthetic root, as its left child; `PHASE <- ROOTED` (R181, R182). -/
def rootNode (r : NodeIdx) (s : State) : Host.Outcome State Fault Refusal :=
  if isLeaf s r then
    match alloc (.internal (weightOf s r) (some r) none) s with
    | none => .fault .nodeMemoryFull
    | some (p, t) => .next { t with root := some p, phase := .rooted }
  else .next { s with root := some r, phase := .rooted }

/-- ROOT of the empty input: `ROOT <- NULL; PHASE <- ROOTED` (R181, R185). -/
def rootEmpty (s : State) : State := { s with root := none, phase := .rooted }

/-- The core step after SEED or a MERGE: MERGE if `|Q| ≥ 2`, ROOT otherwise (R176, R180). `|Q| ≥ 2` is that two
removals succeed, and what they removed is what MERGE needs. -/
def mergeOrRoot (s : State) : Host.Outcome State Fault Refusal :=
  match popMin s with
  | none => .next (rootEmpty s)
  | some (a, t) =>
    match popMin t with
    | none => rootNode a t
    | some (b, u) => mergeNodes a b u

/-- The leaves below a child reference, seen through the edge `b`: NULL has none (R183). -/
def leavesUnder (visit : NodeIdx → Option (List LeafPath)) (b : Bool) : NodeRef → Option (List LeafPath)
  | none => some []
  | some j => (visit j).map (List.map (LeafPath.under b))

/-- `visit`: the leaves at and below node i, left first, each with its path (R183, R184). `levels` bounds the depth;
`none` where some path is longer than `levels - 1` edges. -/
def leafPaths : Nat → Vector NodeRec 511 → NodeIdx → Option (List LeafPath)
  | 0, _, _ => none
  | levels + 1, node, i =>
    match node[i] with
    | .leaf x w => some [⟨x, w, []⟩]
    | .internal _ l r =>
      match leavesUnder (leafPaths levels node) false l, leavesUnder (leafPaths levels node) true r with
      | some ls, some rs => some (ls ++ rs)
      | _, _ => none

/-- Every leaf the traversal from ROOT reaches; none of the empty tree's. A path may have 255 edges at most, so that
its length fits CB_LEN (R60, R183, R197). -/
def treeLeaves (s : State) : Option (List LeafPath) :=
  match s.root with
  | none => some []
  | some r => leafPaths 256 s.node r

/-- INDEX: the code book and COMP_BITS from the tree, the walk at rest, `PHASE <- INDEXED`, `finish()` (R183). -/
def indexStep (s : State) : Host.Outcome State Fault Refusal :=
  match treeLeaves s with
  | none => .fault .codewordTooLong
  | some leaves => complete { restWalk (leaves.foldl recordLeaf (emptyBook s)) with phase := .indexed }

/-- BUILD: the micro-step that PHASE selects; issued in INDEXED it is refused (R171, R276). -/
def execBuild (s : State) : Host.Outcome State Fault Refusal :=
  match s.phase with
  | .empty => .next (seedStep s)
  | .seeded => mergeOrRoot s
  | .merging => mergeOrRoot s
  | .rooted => indexStep s
  | .indexed => fail .phaseErr s

end Sys2Proof.Machine
end

