-- ==== Sys2Proof/Machine/Codec.lean ====
section
/-! DEFINITION. The codec commands (spec/43_codec.md R210 to R250): lookups in both directions, encode, decode and
sizes. Each begins with the common gate: outside INDEXED it raises UNINITIALIZED (R210). -/

namespace Sys2Proof.Machine

/-- The common gate of the codec commands (R210). -/
def codecGate (s : State) (body : Host.Outcome State Fault Refusal) : Host.Outcome State Fault Refusal :=
  if s.phase ≠ .indexed then fail .uninitialized s else body

/-- The child an edge label leads to: 1 is right, 0 is left (R178, R229). -/
def child (b : Bool) (l r : NodeRef) : NodeRef := if b then r else l

/-- The reverse lookup from a position in the tree: the symbol of the terminal leaf, where every bit was consumable and
the terminal node is a leaf (R228, R229). -/
def symbolAt (node : Vector NodeRec 511) : NodeRef → List Bool → Option Symbol
  | none, _ => none
  | some i, [] =>
    match node[i] with
    | .leaf x _ => some x
    | .internal _ _ _ => none
  | some i, b :: rest =>
    match node[i] with
    | .leaf _ _ => none
    | .internal _ l r => symbolAt node (child b l r) rest

/-- What one code bit does to the walk (R238). -/
inductive WalkMove where
  /-- The walk was dead already: the bit is consumed and nothing happens. -/
  | stayDead
  /-- There is no node to step to: the walk dies. -/
  | die
  /-- The step lands on a leaf: its symbol is emitted and the walk returns to ROOT. -/
  | found (x : Symbol)
  /-- The step lands on an internal node. -/
  | moveTo (i : NodeIdx)
deriving DecidableEq, Repr

/-- The move bit `b` makes from the walk's position (R238). -/
def walkMove (b : Bool) (s : State) : WalkMove :=
  if s.walkDead then .stayDead
  else
    match s.walkNode with
    | none => .die
    | some cur =>
      match s.node[cur] with
      | .leaf _ _ => .die
      | .internal _ l r =>
        match child b l r with
        | none => .die
        | some nxt =>
          match s.node[nxt] with
          | .leaf x _ => .found x
          | .internal _ _ _ => .moveTo nxt

/-- CODEWORD_OF x: RES_LEN and RES_CW receive its codeword; an absent symbol's is empty (R212). -/
def execCodewordOf (x : Symbol) (s : State) : Host.Outcome State Fault Refusal :=
  codecGate s (complete (showCodeword x s))

/-- ENCODE_SYM x: as CODEWORD_OF, and the codeword's bits go onto ENC_OUT, `c_1` first (R221, R222). -/
def execEncodeSym (x : Symbol) (s : State) : Host.Outcome State Fault Refusal :=
  codecGate s (complete (emitEnc (bookCodeword s x) (showCodeword x s)))

/-- SYMBOL_OF: RES_SYM receives the symbol of the codeword in CWIN, or the sentinel (R229, R230). -/
def execSymbolOf (s : State) : Host.Outcome State Fault Refusal :=
  codecGate s (complete (showSymbol (symbolAt s.node s.root (inputCodeword s)) s))

/-- DECODE_BIT's effect on RES_SYM, the walk and DEC_OUT (R238). -/
def decodeBit (b : Bool) (s : State) : State :=
  match walkMove b s with
  | .stayDead => showSymbol none s
  | .die => { showSymbol none s with walkDead := true }
  | .found x => { emitDec [x] (showSymbol (some x) s) with walkNode := s.root }
  | .moveTo i => { showSymbol none s with walkNode := some i }

/-- DECODE_BIT b (R238). -/
def execDecodeBit (b : Bool) (s : State) : Host.Outcome State Fault Refusal :=
  codecGate s (complete (decodeBit b s))

/-- DECODE_FLUSH: the trailing partial codeword is dropped and the walk is at rest (R244). -/
def execDecodeFlush (s : State) : Host.Outcome State Fault Refusal :=
  codecGate s (complete (restWalk s))

/-- `{6'b0, NODE_CNT[9:0], 7'b0, ROOT[8:0]}` (R52, R248). -/
def treeWord (s : State) : Word :=
  (0 : BitVec 6) ++ BitVec.ofNat 10 s.nodeCnt.val ++ (0 : BitVec 7) ++ refField s.root

/-- SIZES: originalSize, compressedBitLength, compressedSize (its floor by 8) and the tree's root and node count
(R248, R249, R250). -/
def execSizes (s : State) : Host.Outcome State Fault Refusal :=
  codecGate s (complete { s with res := { s.res with
    orig := s.origCount
    cbitsLo := s.compBits.extractLsb' 0 32
    cbitsHi := s.compBits.extractLsb' 32 32
    csizeLo := (s.compBits >>> 3).extractLsb' 0 32
    csizeHi := (s.compBits >>> 3).extractLsb' 32 32
    tree := treeWord s } })

end Sys2Proof.Machine
end

