-- ==== Sys2Proof/Machine/Control.lean ====
section
/-! DEFINITION. The control commands NOP and CLEAR (spec/40_control.md R141, R142). -/

namespace Sys2Proof.Machine

/-- NOP: `finish()` (R141). -/
def execNop (s : State) : Host.Outcome State Fault Refusal := complete s

/-- CLEAR: the block returns to its reset state, keeping the host's input registers and the ports' events (R142). -/
def execClear (s : State) : Host.Outcome State Fault Refusal := complete (clearState s)

end Sys2Proof.Machine
end

