-- ==== Sys2Proof/Machine/Inspect.lean ====
section
/-! DEFINITION. The tree inspection command (spec/44_inspect.md R260, R261). -/

namespace Sys2Proof.Machine

/-- RES_NODE0 of a record: IS_INTERNAL, five zeros, LEFT, RIGHT, SYMBOL; a leaf reads LEFT = RIGHT = 0x1FF and an
internal node SYMBOL = 0 (R47, R261). -/
def node0Word : NodeRec → Word
  | .leaf x _ => (0 : BitVec 1) ++ (0 : BitVec 5) ++ (0x1FF : BitVec 9) ++ (0x1FF : BitVec 9) ++ x
  | .internal _ l r => (1 : BitVec 1) ++ (0 : BitVec 5) ++ refField l ++ refField r ++ (0 : BitVec 8)

/-- RES_NODE0 and RES_NODE1 receive the fields of a record (R47, R261). -/
def showNode (rec : NodeRec) (s : State) : State :=
  { s with res := { s.res with node0 := node0Word rec, node1 := nodeWeight rec } }

/-- NODE_READ i: refused where `i ≥ NODE_CNT`, in every phase alike, else the record is shown (R261, R278). -/
def execNodeRead (i : BitVec 9) (s : State) : Host.Outcome State Fault Refusal :=
  if h : i.toNat < s.nodeCnt.val then complete (showNode (s.node[i.toNat]'(by omega)) s)
  else fail .badIndex s

end Sys2Proof.Machine
end

