-- ==== Sys2Proof/Machine/Tally.lean ====
section
/-! DEFINITION. The tally commands (spec/41_tally.md R151, R157). -/

namespace Sys2Proof.Machine

/-- TALLY_BYTE x: refused outside EMPTY, refused where the byte count would wrap, else counted (R151, R152). -/
def execTallyByte (x : Symbol) (s : State) : Host.Outcome State Fault Refusal :=
  if s.phase ≠ .empty then fail .phaseErr s
  else if s.origCount = 0xFFFFFFFF then fail .countOverflow s
  else complete (countByte x s)

/-- TALLY_ABORT: refused outside EMPTY, else the tally is discarded AND the command ends with IO_ERROR (R157, R158). -/
def execTallyAbort (s : State) : Host.Outcome State Fault Refusal :=
  if s.phase ≠ .empty then fail .phaseErr s
  else fail .ioError (discardTally s)

end Sys2Proof.Machine
end

