-- ==== Sys2Proof/Machine/Dispatch.lean ====
section
/-! DEFINITION. One arm for each command (spec/30_encoding.md R116, R120). -/

namespace Sys2Proof.Machine

def exec (i : Instr) (s : State) : Host.Outcome State Fault Refusal :=
  match i with
  | .nop => Sys2Proof.Machine.execNop s
  | .clear => Sys2Proof.Machine.execClear s
  | .tallyByte x => Sys2Proof.Machine.execTallyByte x s
  | .tallyAbort => Sys2Proof.Machine.execTallyAbort s
  | .build => Sys2Proof.Machine.execBuild s
  | .codewordOf x => Sys2Proof.Machine.execCodewordOf x s
  | .encodeSym x => Sys2Proof.Machine.execEncodeSym x s
  | .symbolOf => Sys2Proof.Machine.execSymbolOf s
  | .decodeBit b => Sys2Proof.Machine.execDecodeBit b s
  | .decodeFlush => Sys2Proof.Machine.execDecodeFlush s
  | .sizes => Sys2Proof.Machine.execSizes s
  | .nodeRead k => Sys2Proof.Machine.execNodeRead k s

end Sys2Proof.Machine
end

