-- ==== Sys2Proof/Machine/Flags.lean ====
section
/-! DEFINITION. The STATUS register (spec/10_state.md R36 to R42, R67): the codes of its fields, the two flags derived
from the walk, and the word a host reads. The block has no other flags (R67). -/

namespace Sys2Proof.Machine

/-- The value of STATUS.PHASE (R38). -/
def Phase.code : Phase → BitVec 3
  | .empty => 0
  | .seeded => 1
  | .merging => 2
  | .rooted => 3
  | .indexed => 4

/-- The value of STATUS.ERR (R271). -/
def ErrCode.code : ErrCode → BitVec 4
  | .ok => 0
  | .uninitialized => 1
  | .ioError => 2
  | .illegalCmd => 3
  | .phaseErr => 4
  | .countOverflow => 5
  | .badIndex => 6

/-- STATUS.DEC_PEND reads `WALK_DEAD or (WALK_NODE ≠ ROOT)` (R41). DESIGN CHOICE (log 19): in ROOTED, where BUILD has
fixed ROOT and INDEX has not yet put the walk on it (R181, R183), that formula would give 1 with no bit consumed, against
R41's "exactly when" and R95; there the comparison is not made. -/
def decPend (s : State) : Bool := s.walkDead || (s.phase != .rooted && s.walkNode != s.root)

/-- STATUS.DEC_DEAD reads `WALK_DEAD` (R42). -/
def decDead (s : State) : Bool := s.walkDead

/-- The STATUS word: [0] BUSY, [3:1] PHASE, [7:4] ERR, [8] ERRSEEN, [9] DEC_PEND, [10] DEC_DEAD, [31:11] zero (R36). -/
def statusWord (s : State) : Word :=
  (0 : BitVec 21) ++ BitVec.ofBool (decDead s) ++ BitVec.ofBool (decPend s) ++ BitVec.ofBool s.errSeen ++ s.err.code
    ++ s.phase.code ++ BitVec.ofBool s.busy

/-- The walk is at rest: `WALK_NODE = ROOT` and `WALK_DEAD = 0` (R62). -/
def atRest (s : State) : Bool := s.walkNode == s.root && !s.walkDead

end Sys2Proof.Machine
end

