-- ==== Sys2Proof/Machine/Bus.lean ====
section
/-! DEFINITION. The register window and the host agent (spec/10_state.md R31 to R53, spec/20_memory.md R80 to R93,
spec/70_reset_and_hazards.md R300, R301): the map of the window, a host read and write of one register, reset, and
which agent moves next. -/

namespace Sys2Proof.Machine

/-! ## The register map -/

/-- The registers of the window (R31). -/
inductive HostReg where
  | id | cmd | status | cwinLen
  | cwin (k : Fin 8)
  | resSym | resLen
  | resCw (k : Fin 8)
  | resNode0 | resNode1 | resOrig | resCbitsLo | resCbitsHi | resCsizeLo | resCsizeHi | resTree
  /-- The offsets 0x78 and 0x7C (R32). -/
  | reserved (k : Fin 2)
deriving DecidableEq, Repr

/-- The offset column of R31. -/
def HostReg.offset : HostReg → Nat
  | .id => 0x00
  | .cmd => 0x04
  | .status => 0x08
  | .cwinLen => 0x0C
  | .cwin k => 0x10 + 4 * k.val
  | .resSym => 0x30
  | .resLen => 0x34
  | .resCw k => 0x38 + 4 * k.val
  | .resNode0 => 0x58
  | .resNode1 => 0x5C
  | .resOrig => 0x60
  | .resCbitsLo => 0x64
  | .resCbitsHi => 0x68
  | .resCsizeLo => 0x6C
  | .resCsizeHi => 0x70
  | .resTree => 0x74
  | .reserved k => 0x78 + 4 * k.val

/-- The 32 registers, in offset order (R31). -/
def allRegs : List HostReg :=
  [.id, .cmd, .status, .cwinLen, .cwin 0, .cwin 1, .cwin 2, .cwin 3, .cwin 4, .cwin 5, .cwin 6, .cwin 7, .resSym,
   .resLen, .resCw 0, .resCw 1, .resCw 2, .resCw 3, .resCw 4, .resCw 5, .resCw 6, .resCw 7, .resNode0, .resNode1,
   .resOrig, .resCbitsLo, .resCbitsHi, .resCsizeLo, .resCsizeHi, .resTree, .reserved 0, .reserved 1]

/-- The register at an offset of the window; none at an offset that is not a multiple of 4 (R31, R82). -/
def regAt (off : Nat) : Option HostReg := allRegs.find? (fun r => r.offset == off)

/-- A RES_* register, which only the core writes (R33, R53). -/
def isResReg : HostReg → Bool
  | .resSym | .resLen | .resCw _ | .resNode0 | .resNode1 | .resOrig | .resCbitsLo | .resCbitsHi | .resCsizeLo
  | .resCsizeHi | .resTree => true
  | .id | .cmd | .status | .cwinLen | .cwin _ | .reserved _ => false

/-- What a register holds: ID is a constant, CMD and the reserved offsets read 0 (R32, R34 to R52). -/
def regValue (s : State) : HostReg → Word
  | .id => 0x48554631
  | .cmd => 0
  | .status => statusWord s
  | .cwinLen => s.cwinLen.setWidth 32
  | .cwin k => s.cwin[k]
  | .resSym => s.res.sym
  | .resLen => s.res.len
  | .resCw k => s.res.cw[k]
  | .resNode0 => s.res.node0
  | .resNode1 => s.res.node1
  | .resOrig => s.res.orig
  | .resCbitsLo => s.res.cbitsLo
  | .resCbitsHi => s.res.cbitsHi
  | .resCsizeLo => s.res.csizeLo
  | .resCsizeHi => s.res.csizeHi
  | .resTree => s.res.tree
  | .reserved _ => 0

/-- The value a host read returns: the register's, but a RES_* register while BUSY = 1 answers a free value
(R89, U1, log 3). -/
def readReg (r : HostReg) (s : State) : Word :=
  if s.busy && isResReg r then Config.freeResRead s.freeCtr else regValue s r

/-- A host read: its value is observed, and no register changes (R18, R86). Where the value is free, the model's own
counter of draws moves on, so that the next such read may answer otherwise. -/
def hostRead (r : HostReg) (s : State) : State :=
  { s with
    reads := s.reads ++ [readReg r s]
    freeCtr := if s.busy && isResReg r then s.freeCtr + 1 else s.freeCtr }

/-- A host write, which has a step only while BUSY = 0 (R88): CMD latches the word and sets BUSY (R35, R87); CWIN_LEN
takes bits [7:0] (R43); CWINk takes the word (R44); every other register ignores it (R32). -/
def hostWrite (r : HostReg) (v : Word) (s : State) : State :=
  match r with
  | .cmd => { s with cmdLatch := v, busy := true }
  | .cwinLen => { s with cwinLen := v.setWidth 8 }
  | .cwin k => { s with cwin := s.cwin.set k.val v k.isLt }
  | .id | .status | .resSym | .resLen | .resCw _ | .resNode0 | .resNode1 | .resOrig | .resCbitsLo | .resCbitsHi
  | .resCsizeLo | .resCsizeHi | .resTree | .reserved _ => s

/-! ## The host's accesses -/

/-- What a host access at an address selects. -/
inductive Selected where
  /-- A register of the window. -/
  | reg (r : HostReg)
  /-- An aligned word outside the window (R80). -/
  | outside
  /-- Not an aligned 32-bit word (R83). -/
  | notAWord
deriving DecidableEq, Repr

/-- The address decoder. An access is one aligned 32-bit word, and any other is none, wherever it lies (R82, R83): HUF_BASE
is a multiple of 128, so alignment in the window is the address's own. The window is the 128-byte block at HUF_BASE, and
within it only address bits [6:0] are decoded (R81). -/
def select (addr size : Nat) : Selected :=
  if size ≠ 4 ∨ addr % 4 ≠ 0 then .notAWord
  else if addr / 128 ≠ Config.hufBlock then .outside
  else
    match regAt (addr % 128) with
    | some r => .reg r
    | none => .notAWord

/-- An access performed on the register it selects; one that is no aligned word is refused (R83), and an aligned word
outside the window faults (R80, log 10). -/
def onSelected (addr size : Nat) (access : HostReg → State) : Host.Outcome State Fault Refusal :=
  match select addr size with
  | .reg r => .next (access r)
  | .outside => .fault .outsideWindow
  | .notAWord => .refused .notAnAlignedWord

/-- The bits the latched command would put onto ENC_OUT in its step (R221): only ENCODE_SYM emits there (R64). -/
def pendingEnc (s : State) : List Bool :=
  match s.busy, s.phase, decode s.cmdLatch with
  | true, .indexed, .ok (.encodeSym x) => bookCodeword s x
  | _, _, _ => []

/-- The symbols the latched command would put onto DEC_OUT in its step (R238): only DECODE_BIT emits there (R64). -/
def pendingDec (s : State) : List Symbol :=
  match s.busy, s.phase, decode s.cmdLatch with
  | true, .indexed, .ok (.decodeBit b) =>
    match walkMove b s with
    | .found x => [x]
    | .stayDead | .die | .moveTo _ => []
  | _, _, _ => []

/-- The assertion of reset: every element at its reset value (R300), a command in progress abandoned; the first
`landed` of the port events it would have made are already on their port (R301, U7, log 5). -/
def hostReset (landed : Nat) (s : State) : State :=
  resetState (emitDec ((pendingDec s).take landed) (emitEnc ((pendingEnc s).take landed) s))

/-- One step of the host: its next line is performed (R16). WAIT reads STATUS and is over when BUSY reads 0 (R122). -/
def hostStep (s : State) : Host.Outcome State Fault Refusal :=
  match s.host with
  | [] => .next s
  | .rd addr size :: rest => onSelected addr size (fun r => hostRead r { s with host := rest })
  | .wr addr size v :: rest => onSelected addr size (fun r => hostWrite r v { s with host := rest })
  | .wait :: rest => .next (hostRead .status (if s.busy then s else { s with host := rest }))
  | .reset landed :: rest => .next (hostReset landed { s with host := rest })

/-! ## The core and the turns -/

/-- One step of the core on the latched word: the row it matches, or ILLEGAL_CMD (R17, R120). -/
def coreStep (s : State) : Host.Outcome State Fault Refusal :=
  match decode s.cmdLatch with
  | .ok i => exec i s
  | .error _ => illegalCommand s

/-- The host has a step: a read, a WAIT's read and a reset always, a write only while BUSY = 0 (R16, R88). -/
def hostReady (s : State) : Bool :=
  match s.host with
  | [] => false
  | .wr _ _ _ :: _ => !s.busy
  | .rd _ _ :: _ | .wait :: _ | .reset _ :: _ => true

/-- Which agent moves next: the core has a step while BUSY = 1 (R17); where both have one, the schedule says, and the
core moves when the schedule is used up (log 1); where neither has one, the block holds its state (R18, R293). -/
def turn (s : State) : Option Agent :=
  if s.busy then if hostReady s then some (s.schedule.headD .core) else some .core
  else if hostReady s then some .host else none

/-- The schedule after the choice of a turn: one entry is used where both agents had a step. -/
def afterTurn (s : State) : State :=
  if s.busy && hostReady s then { s with schedule := s.schedule.tail } else s

end Sys2Proof.Machine
end

