-- ==== Sys2Proof/Machine/Step.lean ====
section
/-! DEFINITION. One step of the machine (spec/00_scope.md R15 to R18): the agent whose turn it is moves. The block
fetches nothing (spec/20_memory.md R97): the word the core runs next is the one in CMD_LATCH. -/

namespace Sys2Proof.Machine

/-- One step: a core step, a host step, or, where neither agent has one, the state held (R16 to R18, R293). -/
def step (s : State) : Host.Outcome State Fault Refusal :=
  match turn s with
  | some .core => coreStep (afterTurn s)
  | some .host => hostStep (afterTurn s)
  | none => .next s

/-- The state in which the very next step runs the command word `w`: it stands in CMD_LATCH with BUSY = 1, as a host
write of CMD leaves it (R87), and the next turn is the core's. -/
def State.withFetchWord (s : State) (nbits w : Nat) : State :=
  let t : State := { s with cmdLatch := BitVec.ofNat 32 (w % 2 ^ nbits), busy := true }
  if hostReady t then { t with schedule := .core :: t.schedule } else t

end Sys2Proof.Machine
end

