-- ==== Sys2Proof/Machine/Program.lean ====
section
/-! DEFINITION. The host program's written form and its expansion (spec/30_encoding.md R121, R122): the assembler's
checks, and the accesses each line stands for. -/

namespace Sys2Proof.Machine

/-- One line of a written host program (R122). -/
inductive Line where
  /-- `WR <REG>, <v>`. -/
  | wr (r : HostReg) (v : Nat)
  /-- `RD <REG>`. -/
  | rd (r : HostReg)
  /-- `WAIT`. -/
  | wait
  /-- A command alone: `WR CMD, enc(<command>)` then `WAIT`. -/
  | command (c : Written)
  /-- `ISSUE <command>`: with no `WAIT`. -/
  | issue (c : Written)
  /-- `TALLY "<bytes>"`. -/
  | tally (text : List Char)
  /-- `ENCODE "<bytes>"`. -/
  | encode (text : List Char)
  /-- `DECODE "<bits>"`, ending with `DECODE_FLUSH`. -/
  | decode (bits : List Char)
  /-- `LOOKUP "<bits>"`. -/
  | lookup (bits : List Char)
deriving DecidableEq, Repr

/-- What the assembler rejects. -/
inductive LineError where
  /-- A written command that is ill formed (R121). -/
  | command (e : WrittenError)
  /-- A value that no 32-bit register holds (R82). -/
  | valueTooWide
  /-- A character that has no ASCII code (R121, log 9). -/
  | notAscii
  /-- A character other than '0' or '1' in a bit string (R122, R237). -/
  | notABit
  /-- A LOOKUP string longer than CWIN_LEN can say (R43, log 9). -/
  | codewordTooLong
deriving DecidableEq, Repr

/-- `MemWrite(HUF_BASE + offset(REG), 4, v)` (R122). -/
def wrLine (r : HostReg) (v : Word) : HostLine := .wr (Config.hufBase + r.offset) 4 v

/-- `MemRead(HUF_BASE + offset(REG), 4)` (R122). -/
def rdLine (r : HostReg) : HostLine := .rd (Config.hufBase + r.offset) 4

/-- A command issued and waited for (R122). -/
def runLines (i : Instr) : List HostLine := [wrLine .cmd (encode i), .wait]

/-- A character of a quoted string as its ASCII code (R121). -/
def asciiSymbol (c : Char) : Except LineError Symbol :=
  if c.toNat < 128 then .ok (BitVec.ofNat 8 c.toNat) else .error .notAscii

/-- A character of a bit string (R122). -/
def bitOfChar (c : Char) : Except LineError Bool :=
  if c = '0' then .ok false else if c = '1' then .ok true else .error .notABit

/-- Every character read, or the first error. -/
def readAll {α : Type} (f : Char → Except LineError α) : List Char → Except LineError (List α)
  | [] => .ok []
  | c :: rest =>
    match f c, readAll f rest with
    | .ok x, .ok xs => .ok (x :: xs)
    | .error e, _ => .error e
    | _, .error e => .error e

/-- `WR CWIN_LEN, L`, then `WR CWINk, val(c)[32k+31:32k]` for k = 0..7, then `SYMBOL_OF` (R122). -/
def lookupLines (c : List Bool) : List HostLine :=
  wrLine .cwinLen (BitVec.ofNat 32 c.length)
    :: (List.finRange 8).map (fun k => wrLine (.cwin k) (wordsOfVec (BitVec.ofNat 256 (codeVal c)))[k])
    ++ runLines .symbolOf

/-- The expansion of a line into the host's accesses (R122). -/
def expand : Line → Except LineError (List HostLine)
  | .wr r v => if v < 2 ^ 32 then .ok [wrLine r (BitVec.ofNat 32 v)] else .error .valueTooWide
  | .rd r => .ok [rdLine r]
  | .wait => .ok [.wait]
  | .command c =>
    match c.check with
    | .ok i => .ok (runLines i)
    | .error e => .error (.command e)
  | .issue c =>
    match c.check with
    | .ok i => .ok [wrLine .cmd (Sys2Proof.encode i)]
    | .error e => .error (.command e)
  | .tally text =>
    match readAll asciiSymbol text with
    | .ok xs => .ok (xs.flatMap (fun x => runLines (.tallyByte x)))
    | .error e => .error e
  | .encode text =>
    match readAll asciiSymbol text with
    | .ok xs => .ok (xs.flatMap (fun x => runLines (.encodeSym x)))
    | .error e => .error e
  | .decode bits =>
    match readAll bitOfChar bits with
    | .ok bs => .ok (bs.flatMap (fun b => runLines (.decodeBit b)) ++ runLines .decodeFlush)
    | .error e => .error e
  | .lookup bits =>
    match readAll bitOfChar bits with
    | .ok bs => if bs.length ≤ 255 then .ok (lookupLines bs) else .error .codewordTooLong
    | .error e => .error e

/-- A host program: its lines' expansions in order, or the first line's error. -/
def assemble : List Line → Except LineError (List HostLine)
  | [] => .ok []
  | l :: rest =>
    match expand l, assemble rest with
    | .ok xs, .ok ys => .ok (xs ++ ys)
    | .error e, _ => .error e
    | _, .error e => .error e

/-- A host program placed before the block: how a program comes to run (log 1). -/
def loadProgram (lines : List HostLine) (s : State) : State := { s with host := lines }

end Sys2Proof.Machine
end

