-- ==== Sys2Proof/Safety.lean ====
section
/-! DEFINITION. What a safe state is: the promises the spec makes about the whole machine, as decidable predicates over
one state. Each names the rules it formalises; `Safe` is all of them together. -/

namespace Sys2Proof.Machine

/-! ## The phases -/

/-- BUILD is between its first and its last micro-step (R38: "PHASE is SEEDED, MERGING or ROOTED only while
STATUS.BUSY = 1 during BUILD"). -/
def midBuild : Phase → Bool
  | .seeded | .merging | .rooted => true
  | .empty | .indexed => false

/-- The queue is in use (R58). -/
def queueing : Phase → Bool
  | .seeded | .merging => true
  | .empty | .rooted | .indexed => false

/-- The root is fixed (R59). -/
def hasRoot : Phase → Bool
  | .rooted | .indexed => true
  | .empty | .seeded | .merging => false

/-! ## The promises -/

/-- `Σ_s FREQ[s]`, as an integer (R55). -/
def freqTotal (s : State) : Nat := ((freqEntries s).map (fun e => e.2.toNat)).sum

/-- `ORIG_COUNT = Σ_s FREQ[s]` (R55, R153). -/
abbrev TallyConserved (s : State) : Prop := freqTotal s = s.origCount.toNat

/-- In the middle of BUILD, BUSY = 1 and the latch holds BUILD; so with BUSY = 0, PHASE is EMPTY or INDEXED
(R38, R65). -/
abbrev SequencerSafe (s : State) : Prop :=
  midBuild s.phase = true → s.busy = true ∧ s.cmdLatch = encode .build

/-- What each phase leaves empty: no node in EMPTY (R57), no queue outside SEEDED and MERGING (R58), no root before
ROOTED (R59), no code book, COMP_BITS = 0 and the walk at rest on NULL before INDEXED (R60, R61, R62). -/
abbrev QuietOutsideBuild (s : State) : Prop :=
  (s.phase = .empty → s.nodeCnt.val = 0) ∧
  (queueing s.phase = false → s.inq = 0) ∧
  (hasRoot s.phase = false → s.root = none) ∧
  (s.phase ≠ .indexed →
    s.compBits = 0 ∧ s.cbLen = Vector.replicate 256 0 ∧ s.walkNode = none ∧ s.walkDead = false)

/-- An internal record at index `i` has a left child, and its children have smaller indices; only the synthetic root's
right child is NULL (R177, R181, R200). -/
def childrenBelow (i : Nat) : NodeRec → Bool
  | .leaf _ _ => true
  | .internal _ none _ => false
  | .internal _ (some l) none => decide (l.val < i)
  | .internal _ (some l) (some r) => decide (l.val < i) && decide (r.val < i)

/-- The tree is a tree: only allocated nodes are queued, children precede parents, ROOT and WALK_NODE name allocated
internal nodes, and in INDEXED the walk is on a node whenever there is a root (R57, R181, R182, R241). -/
abbrev TreeShaped (s : State) : Prop :=
  (∀ i : NodeIdx, inQueue s i = true → i.val < s.nodeCnt.val) ∧
  (∀ i : NodeIdx, i.val < s.nodeCnt.val → childrenBelow i.val s.node[i] = true) ∧
  (∀ r ∈ s.root, r.val < s.nodeCnt.val ∧ isLeaf s r = false) ∧
  (∀ c ∈ s.walkNode, c.val < s.nodeCnt.val ∧ isLeaf s c = false) ∧
  (s.phase = .indexed → s.root.isSome = true → s.walkNode.isSome = true)

/-- The weight below a child reference: a NULL child counts 0 (spec/90_conflicts.md C3, C4). -/
def refWeight (s : State) : NodeRef → Nat
  | none => 0
  | some i => (weightOf s i).toNat

/-- An internal node's weight is the exact sum of its children's: the 32-bit sum did not wrap (R66, R179). -/
def weightIsSum (s : State) (i : NodeIdx) : Bool :=
  match s.node[i] with
  | .leaf _ _ => true
  | .internal w l r => w.toNat == refWeight s l + refWeight s r

/-- Weight conservation: every internal weight is the sum of its children's, the queue's weights add up to ORIG_COUNT
while BUILD merges, and the root's weight is ORIG_COUNT after (R66, R179, R186). -/
abbrev WeightsConserved (s : State) : Prop :=
  (∀ i : NodeIdx, i.val < s.nodeCnt.val → weightIsSum s i = true) ∧
  (queueing s.phase = true → ((queue s).map (fun i => (weightOf s i).toNat)).sum = s.origCount.toNat) ∧
  (hasRoot s.phase = true → refWeight s s.root = s.origCount.toNat)

/-- The leaves at and below a node, with their paths (R183). -/
def leavesOf (s : State) (i : NodeIdx) : List LeafPath := (leafPaths 256 s.node i).getD []

/-- The leaves the traversal from ROOT reaches (R183). -/
def rootLeaves (s : State) : List LeafPath := (treeLeaves s).getD []

/-- While BUILD merges, the frequency entries are spread over the queue's trees as their leaves, each once with its count,
and a tree of m leaves is less than m edges deep (R179, R197). -/
abbrev QueueForest (s : State) : Prop :=
  (∀ i ∈ queue s, leafPaths (leavesOf s i).length s.node i = some (leavesOf s i)) ∧
  (((queue s).flatMap (leavesOf s)).map LeafPath.sym).Perm (present s) ∧
  (∀ i ∈ queue s, ∀ p ∈ leavesOf s i, p.weight = freqOf s p.sym)

/-- Once the root is fixed, the frequency entries are the leaves below it, each once with its count, at the end of a path
of 1 to 255 edges (R66, R182, R186, R197). -/
abbrev RootForest (s : State) : Prop :=
  (treeLeaves s).isSome = true ∧
  ((rootLeaves s).map LeafPath.sym).Perm (present s) ∧
  (∀ p ∈ rootLeaves s, p.weight = freqOf s p.sym ∧ p.path ≠ [])

/-- The leaves of the trees BUILD forms are the frequency entries, each once (R66). -/
abbrev ForestKnown (s : State) : Prop :=
  (queueing s.phase = true → QueueForest s) ∧ (hasRoot s.phase = true → RootForest s)

/-- How many nodes the tree of n symbols has (R196). -/
def treeNodes : Nat → Nat
  | 0 => 0
  | 1 => 2
  | n + 2 => 2 * n + 3

/-- The node memory's layout: the leaves first, in ascending symbol order, then the internal nodes, the last of them
the root; n symbols take `treeNodes n` nodes (R175, R180, R196, R200). -/
abbrev NodesCounted (s : State) : Prop :=
  (queueing s.phase = true → s.nodeCnt.val + (queue s).length = 2 * (present s).length) ∧
  (s.phase = .seeded → s.nodeCnt.val = (present s).length) ∧
  (s.phase = .merging →
    s.nodeCnt.val ≠ 0 ∧ ∀ i : NodeIdx, i.val + 1 = s.nodeCnt.val → inQueue s i = true ∧ isLeaf s i = false) ∧
  (hasRoot s.phase = true →
    s.nodeCnt.val = treeNodes (present s).length ∧
    s.root.map Fin.val = if present s = [] then none else some (treeNodes (present s).length - 1)) ∧
  (s.phase ≠ .empty →
    (∀ i : NodeIdx, i.val < s.nodeCnt.val → isLeaf s i = decide (i.val < (present s).length)) ∧
    (∀ i : NodeIdx, i.val < s.nodeCnt.val → ∀ x ∈ (present s)[i.val]?, s.node[i] = .leaf x (freqOf s x)))

/-- In INDEXED the code book is the tree's: each leaf's codeword is the path to it, held right-aligned with zeros above it,
every other symbol is absent, and COMP_BITS is `Σ freq · len` (R27, R60, R66, R183). -/
abbrev BookAgrees (s : State) : Prop :=
  s.phase = .indexed →
    (∀ p ∈ rootLeaves s,
      bookCodeword s p.sym = p.path ∧ cbCwOf s p.sym = BitVec.ofNat 255 (codeVal p.path)) ∧
    (∀ x ∈ allSymbols, x ∉ (rootLeaves s).map LeafPath.sym → cbLenOf s x = 0) ∧
    s.compBits.toNat = ((rootLeaves s).map (fun p => p.weight.toNat * p.path.length)).sum

/-- A safe state: every promise holds. -/
abbrev Safe (s : State) : Prop :=
  TallyConserved s ∧ SequencerSafe s ∧ QuietOutsideBuild s ∧ TreeShaped s ∧ WeightsConserved s ∧ ForestKnown s ∧
  NodesCounted s ∧ BookAgrees s

/-! ## What statements about walks and texts say -/

/-- The nodes the bits of a string lead through from a position, each step to the child its bit names: a relation of the
statements, apart from the model's own walk (R228). -/
inductive WalkReaches (node : Vector NodeRec 511) : NodeRef → List Bool → NodeRef → Prop
  | here (c : NodeRef) : WalkReaches node c [] c
  | left {i : NodeIdx} {w : Word} {l r e : NodeRef} {rest : List Bool} (h : node[i] = .internal w l r)
      (next : WalkReaches node l rest e) : WalkReaches node (some i) (false :: rest) e
  | right {i : NodeIdx} {w : Word} {l r e : NodeRef} {rest : List Bool} (h : node[i] = .internal w l r)
      (next : WalkReaches node r rest e) : WalkReaches node (some i) (true :: rest) e

/-- One command after another, each at the state the one before it left (R145). -/
def runCommands : List Instr → State → Host.Outcome State Fault Refusal
  | [], s => .next s
  | i :: rest, s =>
    match exec i s with
    | .next t => runCommands rest t
    | .fault r => .fault r
    | .refused r => .refused r

end Sys2Proof.Machine
end

