-- ==== Sys2Proof/Certificates/Slice0/Obligations.lean ====
section
/-! DEFINITION. The statements for the provers, from the numbered rules of spec/. A frame is said as an equation
`t = { s with f := t.f, … }`: every field of the state that it does not name is unchanged. -/

open Sys2Proof Sys2Proof.Machine

/-! ## Encoding (spec/30_encoding.md) -/

/-- Decoding a command's word gives the command back, for every operand of every format (R112, R116, R122). -/
def Obligations.DecodeOfEncode : Prop :=
  ∀ i : Instr, i.WellFormed → decode (encode i) = .ok i

/-- A legal word is the encoding of the command it decodes to: no bit of it is dropped (R116, R118). -/
def Obligations.EncodeOfDecoded : Prop :=
  ∀ (w : Word) (i : Instr), decode w = .ok i → encode i = w

/-- R117: a word is illegal exactly where its OPC is not in the table, its RSV is nonzero or an ARG bit its format fixes
is nonzero; the core executes it as `raise Err(ILLEGAL_CMD)` and no other state changes; 1289 words are legal. -/
def Obligations.IllegalWordsRaiseIllegalCmd : Prop :=
  (∀ w : Word, (∃ e, decode w = .error e) ↔
    ∀ m : Mnemonic, opcField w = opcField m.row.pattern →
      rsvField w ≠ 0 ∨ 2 ^ m.format.operandBits ≤ (argField w).toNat) ∧
  (∀ (s : State) (e : IllegalWord), decode s.cmdLatch = .error e →
    coreStep s = .next { s with err := .illegalCmd, errSeen := true, busy := false }) ∧
  (∃ l : List Word, l.Nodup ∧ l.length = 1289 ∧ ∀ w, w ∈ l ↔ ∃ i, decode w = .ok i)

/-- "at most one row matches any word" (R116). -/
def Obligations.AtMostOneRowMatches : Prop :=
  ∀ (w : Word) (m n : Mnemonic), m.row.selects w = true → n.row.selects w = true → m = n

/-- The encoding examples of R123, legal and illegal. -/
def Obligations.EncodingExamples : Prop :=
  (decode 0x00000000 = .ok .nop ∧ decode 0x01000000 = .ok .clear ∧ decode 0x10000061 = .ok (.tallyByte 0x61) ∧
    decode 0x100000FF = .ok (.tallyByte 0xFF) ∧ decode 0x11000000 = .ok .tallyAbort ∧ decode 0x20000000 = .ok .build ∧
    decode 0x30000062 = .ok (.codewordOf 0x62) ∧ decode 0x31000072 = .ok (.encodeSym 0x72) ∧
    decode 0x38000000 = .ok .symbolOf ∧ decode 0x39000000 = .ok (.decodeBit false) ∧
    decode 0x39000001 = .ok (.decodeBit true) ∧ decode 0x3A000000 = .ok .decodeFlush ∧
    decode 0x40000000 = .ok .sizes ∧ decode 0x500001FE = .ok (.nodeRead 510)) ∧
  (decode 0x02000000 = .error .unknownOpcode ∧ decode 0x20010000 = .error .reservedField ∧
    decode 0x39000002 = .error .argumentBit ∧ decode 0x10000100 = .error .argumentBit)

/-! ## The step, the host and the window (spec/00_scope.md, spec/10_state.md, spec/20_memory.md) -/

/-- R120: when the core moves, it performs the command the latched word decodes to, or raises ILLEGAL_CMD. What the step
adds around exec is that the schedule entry that chose the core is used up, where the host had a step too (log 1). -/
def Obligations.StepRunsLatchedCommand : Prop :=
  ∀ s : State, turn s = some .core →
    afterTurn s = { s with schedule := if hostReady s then s.schedule.tail else s.schedule } ∧
    (∀ i, decode s.cmdLatch = .ok i → step s = exec i (afterTurn s)) ∧
    (∀ e, decode s.cmdLatch = .error e →
      step s = .next { afterTurn s with err := .illegalCmd, errSeen := true, busy := false })

/-- R17, R37, R140: the core has a step only while BUSY = 1; a command that is not BUILD clears BUSY in its one step;
BUILD's step leaves BUSY as it was exactly where it leaves PHASE at SEEDED, MERGING or ROOTED, and from a state with nothing
half-done it then changes nothing that a register of the window holds but STATUS.PHASE (R95; in ROOTED DEC_PEND by
log 19). -/
def Obligations.CommandsCompleteInOneStep : Prop :=
  (∀ s : State, turn s = some .core → s.busy = true) ∧
  (∀ (i : Instr) (s t : State), i ≠ .build → exec i s = .next t → t.busy = false) ∧
  (∀ s t : State, exec .build s = .next t →
    if midBuild t.phase then t.busy = s.busy else t.busy = false) ∧
  (∀ s t : State, QuietOutsideBuild s → exec .build s = .next t → midBuild t.phase = true →
    ∀ r, regValue t r =
      if r = .status then (statusWord s &&& ~~~(0xE : Word)) ||| (t.phase.code.setWidth 32 <<< 1) else regValue s r)

/-- R16, R17, R88, R300: while BUSY = 1 no host write has a step, to whichever address: the step is the core's; with BUSY = 0
the write is performed. Every other host line (a read, WAIT's read, reset) always has a step: with BUSY = 0 it is the
host's turn, and with BUSY = 1, where the core has a step as well, the schedule chooses, the core where it is used up (the
model's form of the free interleaving, log 1). -/
def Obligations.WritesAreHeldWhileBusy : Prop :=
  (∀ (s : State) (addr size : Nat) (v : Word) (rest : List HostLine), s.host = .wr addr size v :: rest →
    (s.busy = true → turn s = some .core ∧ step s = coreStep s) ∧
    (s.busy = false →
      turn s = some .host ∧ step s = onSelected addr size (fun r => hostWrite r v { s with host := rest }))) ∧
  (∀ (s : State) (l : HostLine) (rest : List HostLine), s.host = l :: rest → (∀ addr size v, l ≠ .wr addr size v) →
    (s.busy = false → turn s = some .host) ∧ (s.busy = true → turn s = some (s.schedule.headD .core))) ∧
  (∀ s : State, s.host = [] → s.busy = true → turn s = some .core)

/-- R35, R87: a host write of CMD latches the word and sets BUSY in one step, and changes nothing else. -/
def Obligations.CommandWriteLatches : Prop :=
  ∀ (s : State) (w : Word) (rest : List HostLine), s.busy = false → s.host = wrLine .cmd w :: rest →
    step s = .next { s with host := rest, cmdLatch := w, busy := true }

/-- R32, R33, R43, R44, R82: a host write of any other register has a step, after which CWINk reads the word written,
CWIN_LEN reads its bits [7:0], and every other register of the window reads as before; a read-only or reserved register
ignores the write. Nothing else of the state changes. -/
def Obligations.InputWritesReachOneRegister : Prop :=
  ∀ (s : State) (r : HostReg) (v : Word) (rest : List HostLine),
    s.busy = false → r ≠ .cmd → s.host = wrLine r v :: rest →
    ∃ t, step s = .next t ∧
      (∀ q, regValue t q =
        match r, q with
        | .cwinLen, .cwinLen => v &&& 0xFF
        | .cwin k, .cwin j => if k = j then v else regValue s (.cwin j)
        | _, q => regValue s q) ∧
      t = { s with host := rest, cwinLen := t.cwinLen, cwin := t.cwin }

/-- R86, R89: a host read observes the register's value (a RES register while BUSY = 1 answers the free value of log 3),
and no register, array, walk or port changes. -/
def Obligations.ReadsObserveAndChangeNothing : Prop :=
  ∀ (s : State) (r : HostReg) (rest : List HostLine), turn s = some .host → s.host = rdLine r :: rest →
    ∃ t, step s = .next t ∧
      t.reads = s.reads ++
        [if s.busy = true ∧ isResReg r = true then Config.freeResRead s.freeCtr else regValue s r] ∧
      t = { s with host := rest, reads := t.reads, schedule := t.schedule, freeCtr := t.freeCtr }

/-- R31's map, each of the 32 words of the window by its offset; the values of the registers that are no RES register
(R32, R34, R42, R43): ID is a constant, CMD and the reserved offsets read 0, CWIN_LEN reads 0 in its bits [31:8]; and the
RES registers with BUSY = 0: each reads its own field of the results, RES_CWk word k (R45 to R52). -/
def Obligations.FixedRegistersRead : Prop :=
  (regAt 0x00 = some .id ∧ regAt 0x04 = some .cmd ∧ regAt 0x08 = some .status ∧ regAt 0x0C = some .cwinLen ∧
    (∀ k : Fin 8, regAt (0x10 + 4 * k.val) = some (.cwin k)) ∧
    regAt 0x30 = some .resSym ∧ regAt 0x34 = some .resLen ∧
    (∀ k : Fin 8, regAt (0x38 + 4 * k.val) = some (.resCw k)) ∧
    regAt 0x58 = some .resNode0 ∧ regAt 0x5C = some .resNode1 ∧ regAt 0x60 = some .resOrig ∧
    regAt 0x64 = some .resCbitsLo ∧ regAt 0x68 = some .resCbitsHi ∧ regAt 0x6C = some .resCsizeLo ∧
    regAt 0x70 = some .resCsizeHi ∧ regAt 0x74 = some .resTree ∧
    regAt 0x78 = some (.reserved 0) ∧ regAt 0x7C = some (.reserved 1)) ∧
  (∀ off r, regAt off = some r → r.offset = off ∧ select (Config.hufBase + off) 4 = .reg r) ∧
  ∀ s : State, readReg .id s = 0x48554631 ∧ readReg .cmd s = 0 ∧ (∀ k, readReg (.reserved k) s = 0) ∧
    (readReg .cwinLen s).toNat = s.cwinLen.toNat ∧ (∀ k : Fin 8, readReg (.cwin k) s = s.cwin[k]) ∧
    readReg .status s = statusWord s ∧
    (s.busy = false →
      readReg .resSym s = s.res.sym ∧ readReg .resLen s = s.res.len ∧
      (∀ k : Fin 8, readReg (.resCw k) s = s.res.cw[k]) ∧
      readReg .resNode0 s = s.res.node0 ∧ readReg .resNode1 s = s.res.node1 ∧ readReg .resOrig s = s.res.orig ∧
      readReg .resCbitsLo s = s.res.cbitsLo ∧ readReg .resCbitsHi s = s.res.cbitsHi ∧
      readReg .resCsizeLo s = s.res.csizeLo ∧ readReg .resCsizeHi s = s.res.csizeHi ∧
      readReg .resTree s = s.res.tree)

/-- R36, R38, R41, R42, R271: the fields of STATUS and the codes in them. That DEC_PEND does not compare WALK_NODE with
ROOT in ROOTED is the model's choice (log 19). -/
def Obligations.StatusFields : Prop :=
  (Phase.code .empty = 0 ∧ Phase.code .seeded = 1 ∧ Phase.code .merging = 2 ∧ Phase.code .rooted = 3 ∧
    Phase.code .indexed = 4) ∧
  (ErrCode.code .ok = 0 ∧ ErrCode.code .uninitialized = 1 ∧ ErrCode.code .ioError = 2 ∧
    ErrCode.code .illegalCmd = 3 ∧ ErrCode.code .phaseErr = 4 ∧ ErrCode.code .countOverflow = 5 ∧
    ErrCode.code .badIndex = 6) ∧
  ∀ s : State,
    (statusWord s).getLsbD 0 = s.busy ∧ (statusWord s).extractLsb' 1 3 = s.phase.code ∧
    (statusWord s).extractLsb' 4 4 = s.err.code ∧ (statusWord s).getLsbD 8 = s.errSeen ∧
    ((statusWord s).getLsbD 9 = true ↔ s.walkDead = true ∨ (s.phase ≠ .rooted ∧ s.walkNode ≠ s.root)) ∧
    (statusWord s).getLsbD 10 = s.walkDead ∧ (statusWord s).extractLsb' 11 21 = 0

/-- R83: an access that is no aligned 32-bit word is refused, wherever its first byte lies: inside the window, or before
it and reaching into it. -/
def Obligations.UnalignedAccessIsRefused : Prop :=
  ∀ (s : State) (addr size : Nat) (rest : List HostLine), size ≠ 4 ∨ addr % 4 ≠ 0 →
    (turn s = some .host → s.host = .rd addr size :: rest → step s = .refused .notAnAlignedWord) ∧
    (∀ v, turn s = some .host → s.host = .wr addr size v :: rest → step s = .refused .notAnAlignedWord)

/-- The model's choice (log 10): a host access that is an aligned word outside the window, where this block has nothing,
faults. Any other access there is refused by UnalignedAccessIsRefused. -/
def Obligations.AccessOutsideTheWindowFaults : Prop :=
  ∀ (s : State) (addr : Nat) (rest : List HostLine), addr % 4 = 0 →
    addr < Config.hufBase ∨ Config.hufBase + 0x7F < addr →
    (turn s = some .host → s.host = .rd addr 4 :: rest → step s = .fault .outsideWindow) ∧
    (∀ v, turn s = some .host → s.host = .wr addr 4 v :: rest → step s = .fault .outsideWindow)

/-- R18, R293: with BUSY = 0 and no host access left, the block holds its state. -/
def Obligations.IdleBlockHoldsItsState : Prop :=
  ∀ s : State, s.busy = false → s.host = [] → step s = .next s

/-- R122: WAIT reads STATUS, and is over when BUSY reads 0. -/
def Obligations.WaitPollsStatus : Prop :=
  ∀ (s : State) (rest : List HostLine), turn s = some .host → s.host = .wait :: rest →
    ∃ t, step s = .next t ∧ t.reads = s.reads ++ [statusWord s] ∧ t.host = (if s.busy then s.host else rest) ∧
      t = { s with host := t.host, reads := t.reads, schedule := t.schedule }

/-- R43, R44, R122: the nine writes of LOOKUP leave exactly its bit string as the input codeword, and its SYMBOL_OF still
to do. -/
def Obligations.LookupLoadsTheCodeword : Prop :=
  ∀ (s : State) (c : List Bool) (rest : List HostLine), s.busy = false → c.length ≤ 255 →
    s.host = lookupLines c ++ rest →
    ∃ t, Sys2Proof.core.run 9 s = .next t ∧ inputCodeword t = c ∧ t.host = runLines .symbolOf ++ rest ∧
      t = { s with host := t.host, cwinLen := t.cwinLen, cwin := t.cwin }

/-- R44, R84: the input codeword is read from CWIN with its first bit at bit L-1 of CWIN_VEC, and bit 32k + j of CWIN_VEC
is bit j of CWINk. -/
def Obligations.InputCodewordLayout : Prop :=
  ∀ s : State, (inputCodeword s).length = s.cwinLen.toNat ∧
    (∀ i, 1 ≤ i → i ≤ s.cwinLen.toNat →
      (inputCodeword s)[i - 1]? = some ((cwinVec s).getLsbD (s.cwinLen.toNat - i))) ∧
    (∀ (k : Fin 8) (j : Nat), j < 32 → (cwinVec s).getLsbD (32 * k.val + j) = s.cwin[k].getLsbD j)

/-- R31, R300, R301: reset has a step whenever it is the host's turn; every register of the window then reads its reset
value, the internal state is at that of R68, the command in progress is abandoned, the host's program and the
observation stay, and no event already on a port is removed. NODE and CB_CW hold free values (log 4). -/
def Obligations.ResetRestoresEverything : Prop :=
  ∀ (s : State) (landed : Nat) (rest : List HostLine), turn s = some .host → s.host = .reset landed :: rest →
    ∃ t, step s = .next t ∧
      (∀ r, regValue t r = if r = .id then 0x48554631 else 0) ∧
      t.busy = false ∧ t.phase = .empty ∧ t.cmdLatch = 0 ∧ (∀ x, freqOf t x = 0) ∧ t.origCount = 0 ∧
      t.nodeCnt.val = 0 ∧ (∀ i, inQueue t i = false) ∧ t.root = none ∧ (∀ x, cbLenOf t x = 0) ∧ t.compBits = 0 ∧
      t.walkNode = none ∧ t.walkDead = false ∧ t.host = rest ∧ t.reads = s.reads ∧
      s.encOut <+: t.encOut ∧ s.decOut <+: t.decOut

/-- R301: a reset during ENCODE_SYM leaves a prefix of its bits on ENC_OUT and a reset during DECODE_BIT may or may not
leave its symbol on DEC_OUT: the first `landed` of the events the command would have emitted, for every `landed`. A reset
at which no such command is latched, or with BUSY = 0, leaves both ports as they were. -/
def Obligations.ResetKeepsAnyPrefixOfTheEvents : Prop :=
  ∀ (s : State) (landed : Nat) (rest : List HostLine), turn s = some .host → s.host = .reset landed :: rest →
    ∃ t, step s = .next t ∧
      (∀ i v, s.busy = true → decode s.cmdLatch = .ok i → exec i s = .next v →
        t.encOut = s.encOut ++ (v.encOut.drop s.encOut.length).take landed ∧
        t.decOut = s.decOut ++ (v.decOut.drop s.decOut.length).take landed) ∧
      (s.busy = false → t.encOut = s.encOut ∧ t.decOut = s.decOut) ∧
      (∀ e, decode s.cmdLatch = .error e → t.encOut = s.encOut ∧ t.decOut = s.decOut)

/-! ## The commands -/

/-- R141: NOP. -/
def Obligations.NopFinishes : Prop :=
  encode .nop = 0x00000000 ∧
  (∀ w : Word, opcField w = 0x00 → w ≠ 0 → ∃ e, decode w = .error e) ∧
  (∀ s : State, exec .nop s = .next { s with err := .ok, busy := false })

/-- R142, R303: CLEAR, in every phase. Every element but CWIN_LEN and CWIN0..CWIN7 is at its reset value, NODE and CB_CW
hold free values (log 4), CMD_LATCH too is 0 (log 6), and the ports keep their events. -/
def Obligations.ClearReturnsToReset : Prop :=
  encode .clear = 0x01000000 ∧
  (∀ s : State, ∃ t, exec .clear s = .next t ∧
    (∀ x, freqOf t x = 0 ∧ cbLenOf t x = 0) ∧ (∀ i, inQueue t i = false) ∧
    t = { State.reset with
      cwinLen := s.cwinLen, cwin := s.cwin, node := t.node, cbCw := t.cbCw, encOut := s.encOut, decOut := s.decOut,
      reads := s.reads, host := s.host, schedule := s.schedule, freeCtr := t.freeCtr })

/-- R151, R152, R276, R277: TALLY_BYTE, and what it refuses. -/
def Obligations.TallyByteCounts : Prop :=
  ∀ (x : Symbol) (s : State),
    encode (.tallyByte x) = 0x10000000 ||| x.setWidth 32 ∧
    (s.phase ≠ .empty →
      exec (.tallyByte x) s = .next { s with err := .phaseErr, errSeen := true, busy := false }) ∧
    (s.phase = .empty → s.origCount = 0xFFFFFFFF →
      exec (.tallyByte x) s = .next { s with err := .countOverflow, errSeen := true, busy := false }) ∧
    (s.phase = .empty → s.origCount ≠ 0xFFFFFFFF →
      ∃ t, exec (.tallyByte x) s = .next t ∧
        freqOf t x = freqOf s x + 1 ∧ (∀ y, y ≠ x → freqOf t y = freqOf s y) ∧
        t = { s with freq := t.freq, origCount := s.origCount + 1, err := .ok, busy := false })

/-- R150: from an EMPTY state with no count, tallying a text of at most 2^32 - 1 bytes leaves each symbol's FREQ at the
number of its occurrences and ORIG_COUNT at the text's length. -/
def Obligations.TallyCountsTheText : Prop :=
  ∀ (s : State) (text : List Symbol), s.phase = .empty → (∀ x, freqOf s x = 0) → s.origCount = 0 →
    text.length < 2 ^ 32 →
    ∃ t, runCommands (text.map Instr.tallyByte) s = .next t ∧
      (∀ x, (freqOf t x).toNat = text.count x) ∧ t.origCount.toNat = text.length

/-- R157, R158: TALLY_ABORT. -/
def Obligations.TallyAbortDiscards : Prop :=
  encode .tallyAbort = 0x11000000 ∧
  (∀ s : State,
    (s.phase ≠ .empty →
      exec .tallyAbort s = .next { s with err := .phaseErr, errSeen := true, busy := false }) ∧
    (s.phase = .empty →
      ∃ t, exec .tallyAbort s = .next t ∧ (∀ x, freqOf t x = 0) ∧
        t = { s with freq := t.freq, origCount := 0, err := .ioError, errSeen := true, busy := false }))

/-- R175, R174: BUILD in EMPTY seeds one leaf for each frequency entry, in ascending symbol order. The queue gains
{0, ..., n-1}, and is that set where it was empty, as QuietOutsideBuild has it in EMPTY. That the records at and above
NODE_CNT, which R56 leaves with no defined value, keep what they held is the model's choice (log 4). -/
def Obligations.BuildSeedsTheLeaves : Prop :=
  encode .build = 0x20000000 ∧
  (∀ s : State, s.phase = .empty →
    ∃ t, exec .build s = .next t ∧
      t.nodeCnt.val = (present s).length ∧
      (∀ i : NodeIdx, ∀ x ∈ (present s)[i.val]?, t.node[i] = .leaf x (freqOf s x)) ∧
      (∀ i : NodeIdx, (present s).length ≤ i.val → t.node[i] = s.node[i]) ∧
      (∀ i : NodeIdx, inQueue t i = (decide (i.val < (present s).length) || inQueue s i)) ∧
      t = { s with node := t.node, nodeCnt := t.nodeCnt, inq := t.inq, phase := .seeded })

/-- R172, R177, R178: with two nodes or more in the queue, BUILD removes the key-least node `a`, then the key-least of
the rest `b`, and inserts their parent, the next free index, with `b` left and `a` right. -/
def Obligations.BuildMergesTheTwoLeast : Prop :=
  ∀ (s : State) (a b : NodeIdx), queueing s.phase = true → s.nodeCnt.val < 511 →
    inQueue s a = true → (∀ i, inQueue s i = true → keyLe s a i = true) →
    inQueue s b = true → b ≠ a → (∀ i, inQueue s i = true → i ≠ a → keyLe s b i = true) →
    ∃ t, exec .build s = .next t ∧
      t.nodeCnt.val = s.nodeCnt.val + 1 ∧
      (∀ i : NodeIdx, t.node[i] =
        if i.val = s.nodeCnt.val then .internal (weightOf s a + weightOf s b) (some b) (some a) else s.node[i]) ∧
      (∀ i : NodeIdx, inQueue t i =
        (decide (i.val = s.nodeCnt.val) || (inQueue s i && decide (i ≠ a) && decide (i ≠ b)))) ∧
      t = { s with node := t.node, nodeCnt := t.nodeCnt, inq := t.inq, phase := .merging }

/-- R24, R172: the order BUILD removes by is the lexicographic order of `(weight, index)`. -/
def Obligations.KeyOrderIsLexicographic : Prop :=
  ∀ (s : State) (i j : NodeIdx), keyLe s i j = true ↔
    (weightOf s i).toNat < (weightOf s j).toNat ∨
      ((weightOf s i).toNat = (weightOf s j).toNat ∧ i.val ≤ j.val)

/-- R181, R182, R185: with one node in the queue, BUILD fixes the root: an internal node is it, a leaf goes beneath a
synthetic root as its left child; with none, the root is NULL. The queue is then empty. -/
def Obligations.BuildFixesTheRoot : Prop :=
  ∀ s : State, queueing s.phase = true →
    ((∀ i, inQueue s i = false) → exec .build s = .next { s with root := none, phase := .rooted }) ∧
    (∀ r : NodeIdx, (∀ i, inQueue s i = true ↔ i = r) → isLeaf s r = false →
      exec .build s = .next { s with inq := 0, root := some r, phase := .rooted }) ∧
    (∀ r p : NodeIdx, (∀ i, inQueue s i = true ↔ i = r) → isLeaf s r = true → p.val = s.nodeCnt.val →
      ∃ t, exec .build s = .next t ∧ t.nodeCnt.val = s.nodeCnt.val + 1 ∧
        t = { s with
          inq := 0, node := s.node.set p.val (.internal (weightOf s r) (some r) none) p.isLt, nodeCnt := t.nodeCnt,
          root := some p, phase := .rooted })

/-- R183: INDEX records each leaf's path as its symbol's codeword, right-aligned with zeros above it (R60), empties every
other symbol's entry, sums COMP_BITS, puts the walk at rest and finishes. That CB_CW of an absent symbol, which R60
leaves with no defined value, keeps what it held is the model's choice (log 4). -/
def Obligations.BuildDerivesTheCodeBook : Prop :=
  ∀ (s : State) (leaves : List LeafPath), s.phase = .rooted → treeLeaves s = some leaves →
    (leaves.map LeafPath.sym).Nodup →
    ∃ t, exec .build s = .next t ∧
      (∀ p ∈ leaves, (cbLenOf t p.sym).toNat = p.path.length ∧
        cbCwOf t p.sym = BitVec.ofNat 255 (codeVal p.path) ∧ bookCodeword t p.sym = p.path) ∧
      (∀ x, x ∉ leaves.map LeafPath.sym → cbLenOf t x = 0 ∧ cbCwOf t x = cbCwOf s x) ∧
      t.compBits = BitVec.ofNat 64 ((leaves.map (fun p => p.weight.toNat * p.path.length)).sum) ∧
      t = { s with
        cbLen := t.cbLen, cbCw := t.cbCw, compBits := t.compBits, walkNode := s.root, walkDead := false,
        phase := .indexed, err := .ok, busy := false }

/-- R171, R276: BUILD issued in INDEXED is refused with PHASE_ERR and changes nothing else. -/
def Obligations.BuildTwiceIsPhaseErr : Prop :=
  ∀ s : State, s.phase = .indexed →
    exec .build s = .next { s with err := .phaseErr, errSeen := true, busy := false }

/-- R210, R272: each of the six codec commands, outside INDEXED, raises UNINITIALIZED and changes nothing else. -/
def Obligations.CodecNeedsIndexed : Prop :=
  ∀ (i : Instr) (s : State), s.phase ≠ .indexed →
    ((∃ x, i = .codewordOf x) ∨ (∃ x, i = .encodeSym x) ∨ i = .symbolOf ∨ (∃ b, i = .decodeBit b) ∨
      i = .decodeFlush ∨ i = .sizes) →
    exec i s = .next { s with err := .uninitialized, errSeen := true, busy := false }

/-- R46, R212: CODEWORD_OF in INDEXED shows the symbol's length and codeword, or zeros of an absent symbol; in a safe state
every bit of RES_CW_VEC at position L or above is 0. -/
def Obligations.CodewordOfShowsTheEntry : Prop :=
  ∀ (x : Symbol) (s : State), s.phase = .indexed →
    ∃ t, exec (.codewordOf x) s = .next t ∧
      t.res.len.toNat = (cbLenOf s x).toNat ∧
      resCwVec t = (if cbLenOf s x = 0 then 0 else (cbCwOf s x).setWidth 256) ∧
      (Safe s → (resCwVec t).toNat < 2 ^ (cbLenOf s x).toNat) ∧
      t = { s with res := { s.res with len := t.res.len, cw := t.res.cw }, err := .ok, busy := false }

/-- R221, R222, R224: ENCODE_SYM in INDEXED shows the same and appends `CB_CW[s][L - i]` for i = 1..L to ENC_OUT, in
that order; an absent symbol appends nothing. -/
def Obligations.EncodeSymEmitsTheCodeword : Prop :=
  ∀ (x : Symbol) (s : State), s.phase = .indexed →
    ∃ t bits, exec (.encodeSym x) s = .next t ∧
      t.res.len.toNat = (cbLenOf s x).toNat ∧
      resCwVec t = (if cbLenOf s x = 0 then 0 else (cbCwOf s x).setWidth 256) ∧
      (Safe s → (resCwVec t).toNat < 2 ^ (cbLenOf s x).toNat) ∧
      bits.length = (cbLenOf s x).toNat ∧
      (∀ i, 1 ≤ i → i ≤ bits.length → bits[i - 1]? = some ((cbCwOf s x).getLsbD (bits.length - i))) ∧
      t = { s with
        res := { s.res with len := t.res.len, cw := t.res.cw }, encOut := s.encOut ++ bits, err := .ok, busy := false }

/-- R228, R229, R230, R231: SYMBOL_OF in INDEXED answers the symbol of the leaf the codeword's bits lead to from ROOT,
and the sentinel where they lead to no leaf. -/
def Obligations.SymbolOfWalksTheTree : Prop :=
  ∀ s : State, s.phase = .indexed →
    ∃ t, exec .symbolOf s = .next t ∧
      (∀ (i : NodeIdx) (x : Symbol) (w : Word),
        WalkReaches s.node s.root (inputCodeword s) (some i) → s.node[i] = .leaf x w → t.res.sym = x.setWidth 32) ∧
      ((∀ (i : NodeIdx) (x : Symbol) (w : Word),
        WalkReaches s.node s.root (inputCodeword s) (some i) → s.node[i] ≠ .leaf x w) → t.res.sym = 0xFFFFFFFF) ∧
      t = { s with res := { s.res with sym := t.res.sym }, err := .ok, busy := false }

/-- R238, R240, R241: DECODE_BIT in INDEXED, by where the bit leads. -/
def Obligations.DecodeBitMovesTheWalk : Prop :=
  ∀ (b : Bool) (s : State), s.phase = .indexed →
    let quiet : State := { s with res := { s.res with sym := 0xFFFFFFFF }, err := .ok, busy := false }
    (s.walkDead = true → exec (.decodeBit b) s = .next quiet) ∧
    (s.walkDead = false → s.walkNode = none → exec (.decodeBit b) s = .next { quiet with walkDead := true }) ∧
    (∀ c : NodeIdx, s.walkDead = false → s.walkNode = some c → isLeaf s c = true →
      exec (.decodeBit b) s = .next { quiet with walkDead := true }) ∧
    (∀ (c : NodeIdx) (w : Word) (l r : NodeRef), s.walkDead = false → s.walkNode = some c →
      s.node[c] = .internal w l r →
      ((if b then r else l) = none → exec (.decodeBit b) s = .next { quiet with walkDead := true }) ∧
      (∀ (n : NodeIdx) (x : Symbol) (v : Word), (if b then r else l) = some n → s.node[n] = .leaf x v →
        exec (.decodeBit b) s = .next { s with
          res := { s.res with sym := x.setWidth 32 }, decOut := s.decOut ++ [x], walkNode := s.root, err := .ok,
          busy := false }) ∧
      (∀ n : NodeIdx, (if b then r else l) = some n → isLeaf s n = false →
        exec (.decodeBit b) s = .next { quiet with walkNode := some n }))

/-- R244: DECODE_FLUSH. -/
def Obligations.DecodeFlushRestsTheWalk : Prop :=
  encode .decodeFlush = 0x3A000000 ∧
  (∀ s : State, s.phase = .indexed →
    exec .decodeFlush s = .next { s with walkNode := s.root, walkDead := false, err := .ok, busy := false })

/-- R24, R49, R50, R51, R52, R248: SIZES in INDEXED; `compressedSize` is the floor of COMP_BITS by 8, and NULL reads as
0x1FF. -/
def Obligations.SizesReports : Prop :=
  (refField none = 0x1FF ∧ ∀ i : NodeIdx, (refField (some i)).toNat = i.val) ∧
  ∀ s : State, s.phase = .indexed →
    ∃ t, exec .sizes s = .next t ∧
      t.res.orig = s.origCount ∧
      t.res.cbitsHi.toNat * 2 ^ 32 + t.res.cbitsLo.toNat = s.compBits.toNat ∧
      t.res.csizeHi.toNat * 2 ^ 32 + t.res.csizeLo.toNat = s.compBits.toNat / 8 ∧
      t.res.tree.extractLsb' 0 9 = refField s.root ∧ t.res.tree.extractLsb' 9 7 = 0 ∧
      (t.res.tree.extractLsb' 16 10).toNat = s.nodeCnt.val ∧ t.res.tree.extractLsb' 26 6 = 0 ∧
      t = { s with
        res := { s.res with
          orig := t.res.orig, cbitsLo := t.res.cbitsLo, cbitsHi := t.res.cbitsHi, csizeLo := t.res.csizeLo,
          csizeHi := t.res.csizeHi, tree := t.res.tree },
        err := .ok, busy := false }

/-- R24, R47, R261, R278: NODE_READ shows the record of an allocated index, in every phase, a NULL child as 0x1FF, and
raises BAD_INDEX of any other. -/
def Obligations.NodeReadShowsTheRecord : Prop :=
  (refField none = 0x1FF ∧ ∀ i : NodeIdx, (refField (some i)).toNat = i.val) ∧
  ∀ (i : BitVec 9) (s : State),
    (s.nodeCnt.val ≤ i.toNat →
      exec (.nodeRead i) s = .next { s with err := .badIndex, errSeen := true, busy := false }) ∧
    (∀ k : NodeIdx, k.val = i.toNat → k.val < s.nodeCnt.val →
      ∃ t, exec (.nodeRead i) s = .next t ∧
        t.res.node1 = weightOf s k ∧
        t.res.node0.getLsbD 31 = !isLeaf s k ∧ t.res.node0.extractLsb' 26 5 = 0 ∧
        (∀ x w, s.node[k] = .leaf x w → t.res.node0.extractLsb' 17 9 = 0x1FF ∧
          t.res.node0.extractLsb' 8 9 = 0x1FF ∧ t.res.node0.extractLsb' 0 8 = x) ∧
        (∀ w l r, s.node[k] = .internal w l r → t.res.node0.extractLsb' 17 9 = refField l ∧
          t.res.node0.extractLsb' 8 9 = refField r ∧ t.res.node0.extractLsb' 0 8 = 0) ∧
        t = { s with
          res := { s.res with node0 := t.res.node0, node1 := t.res.node1 }, err := .ok, busy := false })

/-! ## Rules of the whole machine -/

/-- R158, R275, R282: a command that ends with an error changes nothing but ERR, ERRSEEN and BUSY, except that
TALLY_ABORT's discarding of the tally stands. -/
def Obligations.ErrorsChangeNothingElse : Prop :=
  ∀ (i : Instr) (s t : State), s.busy = true → exec i s = .next t → t.busy = false → t.err ≠ .ok →
    t = { s with err := t.err, errSeen := true, busy := false } ∨
    (i = .tallyAbort ∧ t.err = .ioError ∧
      t = { s with
        freq := Vector.replicate 256 0, origCount := 0, err := .ioError, errSeen := true, busy := false })

/-- R39, R40, R283: a command that completes writes ERR with its own result, and ERRSEEN is sticky: set by an error,
cleared only by CLEAR. -/
def Obligations.ErrSeenIsSticky : Prop :=
  ∀ (i : Instr) (s t : State), s.busy = true → exec i s = .next t → t.busy = false →
    (i = .clear → t.err = .ok ∧ t.errSeen = false) ∧
    (i ≠ .clear → t.errSeen = (s.errSeen || t.err != .ok))

/-- R64, R96: no step removes an event from a port; among the commands only ENCODE_SYM emits on ENC_OUT and only
DECODE_BIT on DEC_OUT. -/
def Obligations.PortsOnlyGrow : Prop :=
  (∀ s t : State, step s = .next t → s.encOut <+: t.encOut ∧ s.decOut <+: t.decOut) ∧
  (∀ (i : Instr) (s t : State), exec i s = .next t →
    ((∀ x, i ≠ .encodeSym x) → t.encOut = s.encOut) ∧ ((∀ b, i ≠ .decodeBit b) → t.decOut = s.decOut))

/-- R33, R53: no command writes CWIN_LEN or CWIN0..CWIN7, and no host write changes a RES register or STATUS, but for
the BUSY that a CMD write sets. -/
def Obligations.InputsAndResultsHaveOneWriter : Prop :=
  (∀ (i : Instr) (s t : State), exec i s = .next t →
    t.cwinLen = s.cwinLen ∧ t.cwin = s.cwin ∧ t.reads = s.reads ∧ t.host = s.host) ∧
  (∀ (r : HostReg) (v : Word) (s : State), (hostWrite r v s).res = s.res ∧
    statusWord (hostWrite r v s) = if r = .cmd then statusWord s ||| 1 else statusWord s)

/-- R54, R276: outside EMPTY no step changes FREQ or ORIG_COUNT, but CLEAR and reset, after which PHASE is EMPTY. -/
def Obligations.TallyIsFrozenOutsideEmpty : Prop :=
  ∀ s t : State, s.phase ≠ .empty → step s = .next t → t.phase ≠ .empty →
    t.freq = s.freq ∧ t.origCount = s.origCount

/-- R189, R190: BUILD writes neither FREQ nor ORIG_COUNT, no RES register and no port. -/
def Obligations.BuildLeavesTallyAndResults : Prop :=
  ∀ s t : State, exec .build s = .next t →
    t.freq = s.freq ∧ t.origCount = s.origCount ∧ t.res = s.res ∧ t.encOut = s.encOut ∧ t.decOut = s.decOut

/-- R62: only DECODE_BIT moves the walk; any other command leaves it or puts it at rest. -/
def Obligations.OnlyDecodeBitMovesTheWalk : Prop :=
  ∀ (i : Instr) (s t : State), (∀ b, i ≠ .decodeBit b) → exec i s = .next t →
    (t.walkNode = s.walkNode ∧ t.walkDead = s.walkDead) ∨ (t.walkNode = t.root ∧ t.walkDead = false)

/-! ## Invariants -/

/-- Every promise of `Safe` holds after reset. -/
def Obligations.ResetIsSafe : Prop := Safe State.reset

/-- R55, R153: every step of the machine keeps `ORIG_COUNT = Σ FREQ[s]`. -/
def Obligations.StepKeepsTally : Prop :=
  ∀ s t : State, TallyConserved s → step s = .next t → TallyConserved t

/-- R38, R65: every step keeps PHASE at EMPTY or INDEXED whenever BUSY = 0, and the latch at BUILD in between. -/
def Obligations.StepKeepsSequencer : Prop :=
  ∀ s t : State, SequencerSafe s → step s = .next t →
    SequencerSafe t ∧ (t.busy = false → t.phase = .empty ∨ t.phase = .indexed)

/-- R57, R58, R59, R61, R241: every step keeps what each phase leaves empty, and the tree a tree. -/
def Obligations.StepKeepsTreeShape : Prop :=
  ∀ s t : State, QuietOutsideBuild s → TreeShaped s → step s = .next t → QuietOutsideBuild t ∧ TreeShaped t

/-- R66, R179, R186, R196, R200: every step keeps every promise: the leaves are the frequency entries each once, weights
are conserved, the node memory has its layout, and in INDEXED the code book is the tree's. -/
def Obligations.StepKeepsSafe : Prop :=
  ∀ s t : State, Safe s → step s = .next t → Safe t

/-- R192, R196, R197: from a safe state no core step runs out of node memory or forms a codeword too long to hold: no
core step faults or is refused. -/
def Obligations.SafeCoreStepCompletes : Prop :=
  ∀ s : State, Safe s → ∃ t, coreStep s = .next t

/-- R171, R180, R198: a BUILD issued in a safe state with n frequency entries and no host access pending reaches INDEXED
in exactly `2 + max(n - 1, 0) + 1` steps, with BUSY = 1 before the last. -/
def Obligations.BuildTakesItsSteps : Prop :=
  ∀ s : State, Safe s → s.phase = .empty → s.busy = true → s.cmdLatch = encode .build → s.host = [] →
    (∃ t, Sys2Proof.core.run (2 + ((present s).length - 1) + 1) s = .next t ∧
      t.phase = .indexed ∧ t.busy = false ∧ t.err = .ok) ∧
    (∀ k, k < 2 + ((present s).length - 1) + 1 →
      ∃ t, Sys2Proof.core.run k s = .next t ∧ t.busy = true ∧ t.phase ≠ .indexed)

/-- R188: BUILD's result is a function of FREQ alone: two safe states in EMPTY with the same FREQ, whatever else they
hold, reach the same phase, nodes, queue, root and code book after each number of BUILD's steps. -/
def Obligations.BuildDependsOnFreqAlone : Prop :=
  ∀ (s u s' u' : State) (k : Nat), Safe s → Safe u → s.freq = u.freq →
    s.phase = .empty → s.busy = true → s.cmdLatch = encode .build → s.host = [] →
    u.phase = .empty → u.busy = true → u.cmdLatch = encode .build → u.host = [] →
    k ≤ 2 + ((present s).length - 1) + 1 →
    Sys2Proof.core.run k s = .next s' → Sys2Proof.core.run k u = .next u' →
    s'.phase = u'.phase ∧ s'.nodeCnt = u'.nodeCnt ∧ s'.inq = u'.inq ∧ s'.root = u'.root ∧
    (∀ i : NodeIdx, i.val < s'.nodeCnt.val → s'.node[i] = u'.node[i]) ∧
    s'.cbLen = u'.cbLen ∧ s'.compBits = u'.compBits ∧
    (∀ x, cbLenOf s' x ≠ 0 → cbCwOf s' x = cbCwOf u' x)

/-! ## The code -/

/-- R66, R232: in a safe INDEXED state, each symbol with a frequency entry, and no other, has a codeword, and SYMBOL_OF
of it answers the symbol. -/
def Obligations.SymbolOfItsCodeword : Prop :=
  ∀ (s : State) (x : Symbol), Safe s → s.phase = .indexed →
    (freqOf s x ≠ 0 ↔ cbLenOf s x ≠ 0) ∧
    (cbLenOf s x ≠ 0 → s.cwinLen = cbLenOf s x → inputCodeword s = bookCodeword s x →
      ∃ t, exec .symbolOf s = .next t ∧ t.res.sym = x.setWidth 32)

/-- R66, R186: in a safe INDEXED state no symbol's codeword is a prefix of another's. -/
def Obligations.CodeIsPrefixFree : Prop :=
  ∀ (s : State) (x y : Symbol), Safe s → s.phase = .indexed → x ≠ y → cbLenOf s x ≠ 0 → cbLenOf s y ≠ 0 →
    ¬ bookCodeword s x <+: bookCodeword s y

/-- R223, R239, R245, R246: in a safe INDEXED state with the walk at rest, encoding a text whose symbols all have a
codeword and decoding the bits it put on ENC_OUT appends exactly the text to DEC_OUT, with the walk at rest again. -/
def Obligations.DecodeOfEncodedText : Prop :=
  ∀ (s : State) (text : List Symbol), Safe s → s.phase = .indexed → atRest s = true →
    (∀ x ∈ text, cbLenOf s x ≠ 0) →
    ∃ t u bits, runCommands (text.map Instr.encodeSym) s = .next t ∧ t.encOut = s.encOut ++ bits ∧
      bits = text.flatMap (bookCodeword s) ∧
      runCommands (bits.map Instr.decodeBit) t = .next u ∧ u.decOut = s.decOut ++ text ∧ atRest u = true

/-- R61, R199, R249: in a safe INDEXED state COMP_BITS is `Σ_s FREQ[s] · CB_LEN[s]`, below 2^40, and SIZES reports its
floor by 8. -/
def Obligations.CompressedSizeLaw : Prop :=
  ∀ s : State, Safe s → s.phase = .indexed →
    s.compBits.toNat = (allSymbols.map (fun x => (freqOf s x).toNat * (cbLenOf s x).toNat)).sum ∧
    s.compBits.toNat < 2 ^ 40 ∧
    ∃ t, exec .sizes s = .next t ∧
      t.res.csizeHi.toNat * 2 ^ 32 + t.res.csizeLo.toNat =
        (allSymbols.map (fun x => (freqOf s x).toNat * (cbLenOf s x).toNat)).sum / 8

/-- R250: in a safe INDEXED state with a root, NODE_READ of the root shows originalSize. -/
def Obligations.RootWeightIsOriginalSize : Prop :=
  ∀ (s : State) (r : NodeIdx), Safe s → s.phase = .indexed → s.root = some r →
    ∃ t u, exec (.nodeRead (BitVec.ofNat 9 r.val)) s = .next t ∧ exec .sizes s = .next u ∧
      t.res.node1 = u.res.orig
end

