-- ==== Sys2Proof/Laws/State.lean ====
section
/-! SUPPORT. What each update of the state leaves in each field: one lemma per field per update, true by unfolding, so
that no proof unfolds a record update. -/

namespace Sys2Proof.Machine

/-! ### finish -/

@[simp] theorem finish_cmdLatch (s : State) : (finish s).cmdLatch = s.cmdLatch := rfl
@[simp] theorem finish_busy (s : State) : (finish s).busy = false := rfl
@[simp] theorem finish_phase (s : State) : (finish s).phase = s.phase := rfl
@[simp] theorem finish_err (s : State) : (finish s).err = .ok := rfl
@[simp] theorem finish_errSeen (s : State) : (finish s).errSeen = s.errSeen := rfl
@[simp] theorem finish_cwinLen (s : State) : (finish s).cwinLen = s.cwinLen := rfl
@[simp] theorem finish_cwin (s : State) : (finish s).cwin = s.cwin := rfl
@[simp] theorem finish_res (s : State) : (finish s).res = s.res := rfl
@[simp] theorem finish_freq (s : State) : (finish s).freq = s.freq := rfl
@[simp] theorem finish_origCount (s : State) : (finish s).origCount = s.origCount := rfl
@[simp] theorem finish_node (s : State) : (finish s).node = s.node := rfl
@[simp] theorem finish_nodeCnt (s : State) : (finish s).nodeCnt = s.nodeCnt := rfl
@[simp] theorem finish_inq (s : State) : (finish s).inq = s.inq := rfl
@[simp] theorem finish_root (s : State) : (finish s).root = s.root := rfl
@[simp] theorem finish_cbLen (s : State) : (finish s).cbLen = s.cbLen := rfl
@[simp] theorem finish_cbCw (s : State) : (finish s).cbCw = s.cbCw := rfl
@[simp] theorem finish_compBits (s : State) : (finish s).compBits = s.compBits := rfl
@[simp] theorem finish_walkNode (s : State) : (finish s).walkNode = s.walkNode := rfl
@[simp] theorem finish_walkDead (s : State) : (finish s).walkDead = s.walkDead := rfl
@[simp] theorem finish_encOut (s : State) : (finish s).encOut = s.encOut := rfl
@[simp] theorem finish_decOut (s : State) : (finish s).decOut = s.decOut := rfl
@[simp] theorem finish_reads (s : State) : (finish s).reads = s.reads := rfl
@[simp] theorem finish_host (s : State) : (finish s).host = s.host := rfl
@[simp] theorem finish_schedule (s : State) : (finish s).schedule = s.schedule := rfl
@[simp] theorem finish_freeCtr (s : State) : (finish s).freeCtr = s.freeCtr := rfl

/-! ### raise -/

@[simp] theorem raise_cmdLatch (c : ErrCode) (s : State) : (raise c s).cmdLatch = s.cmdLatch := rfl
@[simp] theorem raise_busy (c : ErrCode) (s : State) : (raise c s).busy = false := rfl
@[simp] theorem raise_phase (c : ErrCode) (s : State) : (raise c s).phase = s.phase := rfl
@[simp] theorem raise_err (c : ErrCode) (s : State) : (raise c s).err = c := rfl
@[simp] theorem raise_errSeen (c : ErrCode) (s : State) : (raise c s).errSeen = true := rfl
@[simp] theorem raise_cwinLen (c : ErrCode) (s : State) : (raise c s).cwinLen = s.cwinLen := rfl
@[simp] theorem raise_cwin (c : ErrCode) (s : State) : (raise c s).cwin = s.cwin := rfl
@[simp] theorem raise_res (c : ErrCode) (s : State) : (raise c s).res = s.res := rfl
@[simp] theorem raise_freq (c : ErrCode) (s : State) : (raise c s).freq = s.freq := rfl
@[simp] theorem raise_origCount (c : ErrCode) (s : State) : (raise c s).origCount = s.origCount := rfl
@[simp] theorem raise_node (c : ErrCode) (s : State) : (raise c s).node = s.node := rfl
@[simp] theorem raise_nodeCnt (c : ErrCode) (s : State) : (raise c s).nodeCnt = s.nodeCnt := rfl
@[simp] theorem raise_inq (c : ErrCode) (s : State) : (raise c s).inq = s.inq := rfl
@[simp] theorem raise_root (c : ErrCode) (s : State) : (raise c s).root = s.root := rfl
@[simp] theorem raise_cbLen (c : ErrCode) (s : State) : (raise c s).cbLen = s.cbLen := rfl
@[simp] theorem raise_cbCw (c : ErrCode) (s : State) : (raise c s).cbCw = s.cbCw := rfl
@[simp] theorem raise_compBits (c : ErrCode) (s : State) : (raise c s).compBits = s.compBits := rfl
@[simp] theorem raise_walkNode (c : ErrCode) (s : State) : (raise c s).walkNode = s.walkNode := rfl
@[simp] theorem raise_walkDead (c : ErrCode) (s : State) : (raise c s).walkDead = s.walkDead := rfl
@[simp] theorem raise_encOut (c : ErrCode) (s : State) : (raise c s).encOut = s.encOut := rfl
@[simp] theorem raise_decOut (c : ErrCode) (s : State) : (raise c s).decOut = s.decOut := rfl
@[simp] theorem raise_reads (c : ErrCode) (s : State) : (raise c s).reads = s.reads := rfl
@[simp] theorem raise_host (c : ErrCode) (s : State) : (raise c s).host = s.host := rfl
@[simp] theorem raise_schedule (c : ErrCode) (s : State) : (raise c s).schedule = s.schedule := rfl
@[simp] theorem raise_freeCtr (c : ErrCode) (s : State) : (raise c s).freeCtr = s.freeCtr := rfl

/-! ### countByte -/

@[simp] theorem countByte_cmdLatch (x : Symbol) (s : State) : (countByte x s).cmdLatch = s.cmdLatch := rfl
@[simp] theorem countByte_busy (x : Symbol) (s : State) : (countByte x s).busy = s.busy := rfl
@[simp] theorem countByte_phase (x : Symbol) (s : State) : (countByte x s).phase = s.phase := rfl
@[simp] theorem countByte_err (x : Symbol) (s : State) : (countByte x s).err = s.err := rfl
@[simp] theorem countByte_errSeen (x : Symbol) (s : State) : (countByte x s).errSeen = s.errSeen := rfl
@[simp] theorem countByte_cwinLen (x : Symbol) (s : State) : (countByte x s).cwinLen = s.cwinLen := rfl
@[simp] theorem countByte_cwin (x : Symbol) (s : State) : (countByte x s).cwin = s.cwin := rfl
@[simp] theorem countByte_res (x : Symbol) (s : State) : (countByte x s).res = s.res := rfl
@[simp] theorem countByte_freq (x : Symbol) (s : State) :
    (countByte x s).freq = s.freq.set x.toNat (freqOf s x + 1) (symbol_lt x) := rfl
@[simp] theorem countByte_origCount (x : Symbol) (s : State) : (countByte x s).origCount = s.origCount + 1 := rfl
@[simp] theorem countByte_node (x : Symbol) (s : State) : (countByte x s).node = s.node := rfl
@[simp] theorem countByte_nodeCnt (x : Symbol) (s : State) : (countByte x s).nodeCnt = s.nodeCnt := rfl
@[simp] theorem countByte_inq (x : Symbol) (s : State) : (countByte x s).inq = s.inq := rfl
@[simp] theorem countByte_root (x : Symbol) (s : State) : (countByte x s).root = s.root := rfl
@[simp] theorem countByte_cbLen (x : Symbol) (s : State) : (countByte x s).cbLen = s.cbLen := rfl
@[simp] theorem countByte_cbCw (x : Symbol) (s : State) : (countByte x s).cbCw = s.cbCw := rfl
@[simp] theorem countByte_compBits (x : Symbol) (s : State) : (countByte x s).compBits = s.compBits := rfl
@[simp] theorem countByte_walkNode (x : Symbol) (s : State) : (countByte x s).walkNode = s.walkNode := rfl
@[simp] theorem countByte_walkDead (x : Symbol) (s : State) : (countByte x s).walkDead = s.walkDead := rfl
@[simp] theorem countByte_encOut (x : Symbol) (s : State) : (countByte x s).encOut = s.encOut := rfl
@[simp] theorem countByte_decOut (x : Symbol) (s : State) : (countByte x s).decOut = s.decOut := rfl
@[simp] theorem countByte_reads (x : Symbol) (s : State) : (countByte x s).reads = s.reads := rfl
@[simp] theorem countByte_host (x : Symbol) (s : State) : (countByte x s).host = s.host := rfl
@[simp] theorem countByte_schedule (x : Symbol) (s : State) : (countByte x s).schedule = s.schedule := rfl
@[simp] theorem countByte_freeCtr (x : Symbol) (s : State) : (countByte x s).freeCtr = s.freeCtr := rfl

/-! ### discardTally -/

@[simp] theorem discardTally_cmdLatch (s : State) : (discardTally s).cmdLatch = s.cmdLatch := rfl
@[simp] theorem discardTally_busy (s : State) : (discardTally s).busy = s.busy := rfl
@[simp] theorem discardTally_phase (s : State) : (discardTally s).phase = s.phase := rfl
@[simp] theorem discardTally_err (s : State) : (discardTally s).err = s.err := rfl
@[simp] theorem discardTally_errSeen (s : State) : (discardTally s).errSeen = s.errSeen := rfl
@[simp] theorem discardTally_cwinLen (s : State) : (discardTally s).cwinLen = s.cwinLen := rfl
@[simp] theorem discardTally_cwin (s : State) : (discardTally s).cwin = s.cwin := rfl
@[simp] theorem discardTally_res (s : State) : (discardTally s).res = s.res := rfl
@[simp] theorem discardTally_freq (s : State) : (discardTally s).freq = Vector.replicate 256 0 := rfl
@[simp] theorem discardTally_origCount (s : State) : (discardTally s).origCount = 0 := rfl
@[simp] theorem discardTally_node (s : State) : (discardTally s).node = s.node := rfl
@[simp] theorem discardTally_nodeCnt (s : State) : (discardTally s).nodeCnt = s.nodeCnt := rfl
@[simp] theorem discardTally_inq (s : State) : (discardTally s).inq = s.inq := rfl
@[simp] theorem discardTally_root (s : State) : (discardTally s).root = s.root := rfl
@[simp] theorem discardTally_cbLen (s : State) : (discardTally s).cbLen = s.cbLen := rfl
@[simp] theorem discardTally_cbCw (s : State) : (discardTally s).cbCw = s.cbCw := rfl
@[simp] theorem discardTally_compBits (s : State) : (discardTally s).compBits = s.compBits := rfl
@[simp] theorem discardTally_walkNode (s : State) : (discardTally s).walkNode = s.walkNode := rfl
@[simp] theorem discardTally_walkDead (s : State) : (discardTally s).walkDead = s.walkDead := rfl
@[simp] theorem discardTally_encOut (s : State) : (discardTally s).encOut = s.encOut := rfl
@[simp] theorem discardTally_decOut (s : State) : (discardTally s).decOut = s.decOut := rfl
@[simp] theorem discardTally_reads (s : State) : (discardTally s).reads = s.reads := rfl
@[simp] theorem discardTally_host (s : State) : (discardTally s).host = s.host := rfl
@[simp] theorem discardTally_schedule (s : State) : (discardTally s).schedule = s.schedule := rfl
@[simp] theorem discardTally_freeCtr (s : State) : (discardTally s).freeCtr = s.freeCtr := rfl

/-! ### enqueue -/

@[simp] theorem enqueue_cmdLatch (i : NodeIdx) (s : State) : (enqueue i s).cmdLatch = s.cmdLatch := rfl
@[simp] theorem enqueue_busy (i : NodeIdx) (s : State) : (enqueue i s).busy = s.busy := rfl
@[simp] theorem enqueue_phase (i : NodeIdx) (s : State) : (enqueue i s).phase = s.phase := rfl
@[simp] theorem enqueue_err (i : NodeIdx) (s : State) : (enqueue i s).err = s.err := rfl
@[simp] theorem enqueue_errSeen (i : NodeIdx) (s : State) : (enqueue i s).errSeen = s.errSeen := rfl
@[simp] theorem enqueue_cwinLen (i : NodeIdx) (s : State) : (enqueue i s).cwinLen = s.cwinLen := rfl
@[simp] theorem enqueue_cwin (i : NodeIdx) (s : State) : (enqueue i s).cwin = s.cwin := rfl
@[simp] theorem enqueue_res (i : NodeIdx) (s : State) : (enqueue i s).res = s.res := rfl
@[simp] theorem enqueue_freq (i : NodeIdx) (s : State) : (enqueue i s).freq = s.freq := rfl
@[simp] theorem enqueue_origCount (i : NodeIdx) (s : State) : (enqueue i s).origCount = s.origCount := rfl
@[simp] theorem enqueue_node (i : NodeIdx) (s : State) : (enqueue i s).node = s.node := rfl
@[simp] theorem enqueue_nodeCnt (i : NodeIdx) (s : State) : (enqueue i s).nodeCnt = s.nodeCnt := rfl
@[simp] theorem enqueue_inq (i : NodeIdx) (s : State) : (enqueue i s).inq = s.inq ||| BitVec.twoPow 511 i.val := rfl
@[simp] theorem enqueue_root (i : NodeIdx) (s : State) : (enqueue i s).root = s.root := rfl
@[simp] theorem enqueue_cbLen (i : NodeIdx) (s : State) : (enqueue i s).cbLen = s.cbLen := rfl
@[simp] theorem enqueue_cbCw (i : NodeIdx) (s : State) : (enqueue i s).cbCw = s.cbCw := rfl
@[simp] theorem enqueue_compBits (i : NodeIdx) (s : State) : (enqueue i s).compBits = s.compBits := rfl
@[simp] theorem enqueue_walkNode (i : NodeIdx) (s : State) : (enqueue i s).walkNode = s.walkNode := rfl
@[simp] theorem enqueue_walkDead (i : NodeIdx) (s : State) : (enqueue i s).walkDead = s.walkDead := rfl
@[simp] theorem enqueue_encOut (i : NodeIdx) (s : State) : (enqueue i s).encOut = s.encOut := rfl
@[simp] theorem enqueue_decOut (i : NodeIdx) (s : State) : (enqueue i s).decOut = s.decOut := rfl
@[simp] theorem enqueue_reads (i : NodeIdx) (s : State) : (enqueue i s).reads = s.reads := rfl
@[simp] theorem enqueue_host (i : NodeIdx) (s : State) : (enqueue i s).host = s.host := rfl
@[simp] theorem enqueue_schedule (i : NodeIdx) (s : State) : (enqueue i s).schedule = s.schedule := rfl
@[simp] theorem enqueue_freeCtr (i : NodeIdx) (s : State) : (enqueue i s).freeCtr = s.freeCtr := rfl

/-! ### dequeue -/

@[simp] theorem dequeue_cmdLatch (i : NodeIdx) (s : State) : (dequeue i s).cmdLatch = s.cmdLatch := rfl
@[simp] theorem dequeue_busy (i : NodeIdx) (s : State) : (dequeue i s).busy = s.busy := rfl
@[simp] theorem dequeue_phase (i : NodeIdx) (s : State) : (dequeue i s).phase = s.phase := rfl
@[simp] theorem dequeue_err (i : NodeIdx) (s : State) : (dequeue i s).err = s.err := rfl
@[simp] theorem dequeue_errSeen (i : NodeIdx) (s : State) : (dequeue i s).errSeen = s.errSeen := rfl
@[simp] theorem dequeue_cwinLen (i : NodeIdx) (s : State) : (dequeue i s).cwinLen = s.cwinLen := rfl
@[simp] theorem dequeue_cwin (i : NodeIdx) (s : State) : (dequeue i s).cwin = s.cwin := rfl
@[simp] theorem dequeue_res (i : NodeIdx) (s : State) : (dequeue i s).res = s.res := rfl
@[simp] theorem dequeue_freq (i : NodeIdx) (s : State) : (dequeue i s).freq = s.freq := rfl
@[simp] theorem dequeue_origCount (i : NodeIdx) (s : State) : (dequeue i s).origCount = s.origCount := rfl
@[simp] theorem dequeue_node (i : NodeIdx) (s : State) : (dequeue i s).node = s.node := rfl
@[simp] theorem dequeue_nodeCnt (i : NodeIdx) (s : State) : (dequeue i s).nodeCnt = s.nodeCnt := rfl
@[simp] theorem dequeue_inq (i : NodeIdx) (s : State) :
    (dequeue i s).inq = s.inq &&& ~~~(BitVec.twoPow 511 i.val) := rfl
@[simp] theorem dequeue_root (i : NodeIdx) (s : State) : (dequeue i s).root = s.root := rfl
@[simp] theorem dequeue_cbLen (i : NodeIdx) (s : State) : (dequeue i s).cbLen = s.cbLen := rfl
@[simp] theorem dequeue_cbCw (i : NodeIdx) (s : State) : (dequeue i s).cbCw = s.cbCw := rfl
@[simp] theorem dequeue_compBits (i : NodeIdx) (s : State) : (dequeue i s).compBits = s.compBits := rfl
@[simp] theorem dequeue_walkNode (i : NodeIdx) (s : State) : (dequeue i s).walkNode = s.walkNode := rfl
@[simp] theorem dequeue_walkDead (i : NodeIdx) (s : State) : (dequeue i s).walkDead = s.walkDead := rfl
@[simp] theorem dequeue_encOut (i : NodeIdx) (s : State) : (dequeue i s).encOut = s.encOut := rfl
@[simp] theorem dequeue_decOut (i : NodeIdx) (s : State) : (dequeue i s).decOut = s.decOut := rfl
@[simp] theorem dequeue_reads (i : NodeIdx) (s : State) : (dequeue i s).reads = s.reads := rfl
@[simp] theorem dequeue_host (i : NodeIdx) (s : State) : (dequeue i s).host = s.host := rfl
@[simp] theorem dequeue_schedule (i : NodeIdx) (s : State) : (dequeue i s).schedule = s.schedule := rfl
@[simp] theorem dequeue_freeCtr (i : NodeIdx) (s : State) : (dequeue i s).freeCtr = s.freeCtr := rfl

/-! ### emptyBook -/

@[simp] theorem emptyBook_cmdLatch (s : State) : (emptyBook s).cmdLatch = s.cmdLatch := rfl
@[simp] theorem emptyBook_busy (s : State) : (emptyBook s).busy = s.busy := rfl
@[simp] theorem emptyBook_phase (s : State) : (emptyBook s).phase = s.phase := rfl
@[simp] theorem emptyBook_err (s : State) : (emptyBook s).err = s.err := rfl
@[simp] theorem emptyBook_errSeen (s : State) : (emptyBook s).errSeen = s.errSeen := rfl
@[simp] theorem emptyBook_cwinLen (s : State) : (emptyBook s).cwinLen = s.cwinLen := rfl
@[simp] theorem emptyBook_cwin (s : State) : (emptyBook s).cwin = s.cwin := rfl
@[simp] theorem emptyBook_res (s : State) : (emptyBook s).res = s.res := rfl
@[simp] theorem emptyBook_freq (s : State) : (emptyBook s).freq = s.freq := rfl
@[simp] theorem emptyBook_origCount (s : State) : (emptyBook s).origCount = s.origCount := rfl
@[simp] theorem emptyBook_node (s : State) : (emptyBook s).node = s.node := rfl
@[simp] theorem emptyBook_nodeCnt (s : State) : (emptyBook s).nodeCnt = s.nodeCnt := rfl
@[simp] theorem emptyBook_inq (s : State) : (emptyBook s).inq = s.inq := rfl
@[simp] theorem emptyBook_root (s : State) : (emptyBook s).root = s.root := rfl
@[simp] theorem emptyBook_cbLen (s : State) : (emptyBook s).cbLen = Vector.replicate 256 0 := rfl
@[simp] theorem emptyBook_cbCw (s : State) : (emptyBook s).cbCw = s.cbCw := rfl
@[simp] theorem emptyBook_compBits (s : State) : (emptyBook s).compBits = 0 := rfl
@[simp] theorem emptyBook_walkNode (s : State) : (emptyBook s).walkNode = s.walkNode := rfl
@[simp] theorem emptyBook_walkDead (s : State) : (emptyBook s).walkDead = s.walkDead := rfl
@[simp] theorem emptyBook_encOut (s : State) : (emptyBook s).encOut = s.encOut := rfl
@[simp] theorem emptyBook_decOut (s : State) : (emptyBook s).decOut = s.decOut := rfl
@[simp] theorem emptyBook_reads (s : State) : (emptyBook s).reads = s.reads := rfl
@[simp] theorem emptyBook_host (s : State) : (emptyBook s).host = s.host := rfl
@[simp] theorem emptyBook_schedule (s : State) : (emptyBook s).schedule = s.schedule := rfl
@[simp] theorem emptyBook_freeCtr (s : State) : (emptyBook s).freeCtr = s.freeCtr := rfl

/-! ### restWalk -/

@[simp] theorem restWalk_cmdLatch (s : State) : (restWalk s).cmdLatch = s.cmdLatch := rfl
@[simp] theorem restWalk_busy (s : State) : (restWalk s).busy = s.busy := rfl
@[simp] theorem restWalk_phase (s : State) : (restWalk s).phase = s.phase := rfl
@[simp] theorem restWalk_err (s : State) : (restWalk s).err = s.err := rfl
@[simp] theorem restWalk_errSeen (s : State) : (restWalk s).errSeen = s.errSeen := rfl
@[simp] theorem restWalk_cwinLen (s : State) : (restWalk s).cwinLen = s.cwinLen := rfl
@[simp] theorem restWalk_cwin (s : State) : (restWalk s).cwin = s.cwin := rfl
@[simp] theorem restWalk_res (s : State) : (restWalk s).res = s.res := rfl
@[simp] theorem restWalk_freq (s : State) : (restWalk s).freq = s.freq := rfl
@[simp] theorem restWalk_origCount (s : State) : (restWalk s).origCount = s.origCount := rfl
@[simp] theorem restWalk_node (s : State) : (restWalk s).node = s.node := rfl
@[simp] theorem restWalk_nodeCnt (s : State) : (restWalk s).nodeCnt = s.nodeCnt := rfl
@[simp] theorem restWalk_inq (s : State) : (restWalk s).inq = s.inq := rfl
@[simp] theorem restWalk_root (s : State) : (restWalk s).root = s.root := rfl
@[simp] theorem restWalk_cbLen (s : State) : (restWalk s).cbLen = s.cbLen := rfl
@[simp] theorem restWalk_cbCw (s : State) : (restWalk s).cbCw = s.cbCw := rfl
@[simp] theorem restWalk_compBits (s : State) : (restWalk s).compBits = s.compBits := rfl
@[simp] theorem restWalk_walkNode (s : State) : (restWalk s).walkNode = s.root := rfl
@[simp] theorem restWalk_walkDead (s : State) : (restWalk s).walkDead = false := rfl
@[simp] theorem restWalk_encOut (s : State) : (restWalk s).encOut = s.encOut := rfl
@[simp] theorem restWalk_decOut (s : State) : (restWalk s).decOut = s.decOut := rfl
@[simp] theorem restWalk_reads (s : State) : (restWalk s).reads = s.reads := rfl
@[simp] theorem restWalk_host (s : State) : (restWalk s).host = s.host := rfl
@[simp] theorem restWalk_schedule (s : State) : (restWalk s).schedule = s.schedule := rfl
@[simp] theorem restWalk_freeCtr (s : State) : (restWalk s).freeCtr = s.freeCtr := rfl

/-! ### emitEnc -/

@[simp] theorem emitEnc_cmdLatch (bits : List Bool) (s : State) : (emitEnc bits s).cmdLatch = s.cmdLatch := rfl
@[simp] theorem emitEnc_busy (bits : List Bool) (s : State) : (emitEnc bits s).busy = s.busy := rfl
@[simp] theorem emitEnc_phase (bits : List Bool) (s : State) : (emitEnc bits s).phase = s.phase := rfl
@[simp] theorem emitEnc_err (bits : List Bool) (s : State) : (emitEnc bits s).err = s.err := rfl
@[simp] theorem emitEnc_errSeen (bits : List Bool) (s : State) : (emitEnc bits s).errSeen = s.errSeen := rfl
@[simp] theorem emitEnc_cwinLen (bits : List Bool) (s : State) : (emitEnc bits s).cwinLen = s.cwinLen := rfl
@[simp] theorem emitEnc_cwin (bits : List Bool) (s : State) : (emitEnc bits s).cwin = s.cwin := rfl
@[simp] theorem emitEnc_res (bits : List Bool) (s : State) : (emitEnc bits s).res = s.res := rfl
@[simp] theorem emitEnc_freq (bits : List Bool) (s : State) : (emitEnc bits s).freq = s.freq := rfl
@[simp] theorem emitEnc_origCount (bits : List Bool) (s : State) : (emitEnc bits s).origCount = s.origCount := rfl
@[simp] theorem emitEnc_node (bits : List Bool) (s : State) : (emitEnc bits s).node = s.node := rfl
@[simp] theorem emitEnc_nodeCnt (bits : List Bool) (s : State) : (emitEnc bits s).nodeCnt = s.nodeCnt := rfl
@[simp] theorem emitEnc_inq (bits : List Bool) (s : State) : (emitEnc bits s).inq = s.inq := rfl
@[simp] theorem emitEnc_root (bits : List Bool) (s : State) : (emitEnc bits s).root = s.root := rfl
@[simp] theorem emitEnc_cbLen (bits : List Bool) (s : State) : (emitEnc bits s).cbLen = s.cbLen := rfl
@[simp] theorem emitEnc_cbCw (bits : List Bool) (s : State) : (emitEnc bits s).cbCw = s.cbCw := rfl
@[simp] theorem emitEnc_compBits (bits : List Bool) (s : State) : (emitEnc bits s).compBits = s.compBits := rfl
@[simp] theorem emitEnc_walkNode (bits : List Bool) (s : State) : (emitEnc bits s).walkNode = s.walkNode := rfl
@[simp] theorem emitEnc_walkDead (bits : List Bool) (s : State) : (emitEnc bits s).walkDead = s.walkDead := rfl
@[simp] theorem emitEnc_encOut (bits : List Bool) (s : State) : (emitEnc bits s).encOut = s.encOut ++ bits := rfl
@[simp] theorem emitEnc_decOut (bits : List Bool) (s : State) : (emitEnc bits s).decOut = s.decOut := rfl
@[simp] theorem emitEnc_reads (bits : List Bool) (s : State) : (emitEnc bits s).reads = s.reads := rfl
@[simp] theorem emitEnc_host (bits : List Bool) (s : State) : (emitEnc bits s).host = s.host := rfl
@[simp] theorem emitEnc_schedule (bits : List Bool) (s : State) : (emitEnc bits s).schedule = s.schedule := rfl
@[simp] theorem emitEnc_freeCtr (bits : List Bool) (s : State) : (emitEnc bits s).freeCtr = s.freeCtr := rfl

/-! ### emitDec -/

@[simp] theorem emitDec_cmdLatch (syms : List Symbol) (s : State) : (emitDec syms s).cmdLatch = s.cmdLatch := rfl
@[simp] theorem emitDec_busy (syms : List Symbol) (s : State) : (emitDec syms s).busy = s.busy := rfl
@[simp] theorem emitDec_phase (syms : List Symbol) (s : State) : (emitDec syms s).phase = s.phase := rfl
@[simp] theorem emitDec_err (syms : List Symbol) (s : State) : (emitDec syms s).err = s.err := rfl
@[simp] theorem emitDec_errSeen (syms : List Symbol) (s : State) : (emitDec syms s).errSeen = s.errSeen := rfl
@[simp] theorem emitDec_cwinLen (syms : List Symbol) (s : State) : (emitDec syms s).cwinLen = s.cwinLen := rfl
@[simp] theorem emitDec_cwin (syms : List Symbol) (s : State) : (emitDec syms s).cwin = s.cwin := rfl
@[simp] theorem emitDec_res (syms : List Symbol) (s : State) : (emitDec syms s).res = s.res := rfl
@[simp] theorem emitDec_freq (syms : List Symbol) (s : State) : (emitDec syms s).freq = s.freq := rfl
@[simp] theorem emitDec_origCount (syms : List Symbol) (s : State) : (emitDec syms s).origCount = s.origCount := rfl
@[simp] theorem emitDec_node (syms : List Symbol) (s : State) : (emitDec syms s).node = s.node := rfl
@[simp] theorem emitDec_nodeCnt (syms : List Symbol) (s : State) : (emitDec syms s).nodeCnt = s.nodeCnt := rfl
@[simp] theorem emitDec_inq (syms : List Symbol) (s : State) : (emitDec syms s).inq = s.inq := rfl
@[simp] theorem emitDec_root (syms : List Symbol) (s : State) : (emitDec syms s).root = s.root := rfl
@[simp] theorem emitDec_cbLen (syms : List Symbol) (s : State) : (emitDec syms s).cbLen = s.cbLen := rfl
@[simp] theorem emitDec_cbCw (syms : List Symbol) (s : State) : (emitDec syms s).cbCw = s.cbCw := rfl
@[simp] theorem emitDec_compBits (syms : List Symbol) (s : State) : (emitDec syms s).compBits = s.compBits := rfl
@[simp] theorem emitDec_walkNode (syms : List Symbol) (s : State) : (emitDec syms s).walkNode = s.walkNode := rfl
@[simp] theorem emitDec_walkDead (syms : List Symbol) (s : State) : (emitDec syms s).walkDead = s.walkDead := rfl
@[simp] theorem emitDec_encOut (syms : List Symbol) (s : State) : (emitDec syms s).encOut = s.encOut := rfl
@[simp] theorem emitDec_decOut (syms : List Symbol) (s : State) : (emitDec syms s).decOut = s.decOut ++ syms := rfl
@[simp] theorem emitDec_reads (syms : List Symbol) (s : State) : (emitDec syms s).reads = s.reads := rfl
@[simp] theorem emitDec_host (syms : List Symbol) (s : State) : (emitDec syms s).host = s.host := rfl
@[simp] theorem emitDec_schedule (syms : List Symbol) (s : State) : (emitDec syms s).schedule = s.schedule := rfl
@[simp] theorem emitDec_freeCtr (syms : List Symbol) (s : State) : (emitDec syms s).freeCtr = s.freeCtr := rfl

/-! ### showCodeword -/

@[simp] theorem showCodeword_cmdLatch (x : Symbol) (s : State) : (showCodeword x s).cmdLatch = s.cmdLatch := rfl
@[simp] theorem showCodeword_busy (x : Symbol) (s : State) : (showCodeword x s).busy = s.busy := rfl
@[simp] theorem showCodeword_phase (x : Symbol) (s : State) : (showCodeword x s).phase = s.phase := rfl
@[simp] theorem showCodeword_err (x : Symbol) (s : State) : (showCodeword x s).err = s.err := rfl
@[simp] theorem showCodeword_errSeen (x : Symbol) (s : State) : (showCodeword x s).errSeen = s.errSeen := rfl
@[simp] theorem showCodeword_cwinLen (x : Symbol) (s : State) : (showCodeword x s).cwinLen = s.cwinLen := rfl
@[simp] theorem showCodeword_cwin (x : Symbol) (s : State) : (showCodeword x s).cwin = s.cwin := rfl
@[simp] theorem showCodeword_freq (x : Symbol) (s : State) : (showCodeword x s).freq = s.freq := rfl
@[simp] theorem showCodeword_origCount (x : Symbol) (s : State) : (showCodeword x s).origCount = s.origCount := rfl
@[simp] theorem showCodeword_node (x : Symbol) (s : State) : (showCodeword x s).node = s.node := rfl
@[simp] theorem showCodeword_nodeCnt (x : Symbol) (s : State) : (showCodeword x s).nodeCnt = s.nodeCnt := rfl
@[simp] theorem showCodeword_inq (x : Symbol) (s : State) : (showCodeword x s).inq = s.inq := rfl
@[simp] theorem showCodeword_root (x : Symbol) (s : State) : (showCodeword x s).root = s.root := rfl
@[simp] theorem showCodeword_cbLen (x : Symbol) (s : State) : (showCodeword x s).cbLen = s.cbLen := rfl
@[simp] theorem showCodeword_cbCw (x : Symbol) (s : State) : (showCodeword x s).cbCw = s.cbCw := rfl
@[simp] theorem showCodeword_compBits (x : Symbol) (s : State) : (showCodeword x s).compBits = s.compBits := rfl
@[simp] theorem showCodeword_walkNode (x : Symbol) (s : State) : (showCodeword x s).walkNode = s.walkNode := rfl
@[simp] theorem showCodeword_walkDead (x : Symbol) (s : State) : (showCodeword x s).walkDead = s.walkDead := rfl
@[simp] theorem showCodeword_encOut (x : Symbol) (s : State) : (showCodeword x s).encOut = s.encOut := rfl
@[simp] theorem showCodeword_decOut (x : Symbol) (s : State) : (showCodeword x s).decOut = s.decOut := rfl
@[simp] theorem showCodeword_reads (x : Symbol) (s : State) : (showCodeword x s).reads = s.reads := rfl
@[simp] theorem showCodeword_host (x : Symbol) (s : State) : (showCodeword x s).host = s.host := rfl
@[simp] theorem showCodeword_schedule (x : Symbol) (s : State) : (showCodeword x s).schedule = s.schedule := rfl
@[simp] theorem showCodeword_freeCtr (x : Symbol) (s : State) : (showCodeword x s).freeCtr = s.freeCtr := rfl

/-! ### showSymbol -/

@[simp] theorem showSymbol_cmdLatch (r : Option Symbol) (s : State) : (showSymbol r s).cmdLatch = s.cmdLatch := rfl
@[simp] theorem showSymbol_busy (r : Option Symbol) (s : State) : (showSymbol r s).busy = s.busy := rfl
@[simp] theorem showSymbol_phase (r : Option Symbol) (s : State) : (showSymbol r s).phase = s.phase := rfl
@[simp] theorem showSymbol_err (r : Option Symbol) (s : State) : (showSymbol r s).err = s.err := rfl
@[simp] theorem showSymbol_errSeen (r : Option Symbol) (s : State) : (showSymbol r s).errSeen = s.errSeen := rfl
@[simp] theorem showSymbol_cwinLen (r : Option Symbol) (s : State) : (showSymbol r s).cwinLen = s.cwinLen := rfl
@[simp] theorem showSymbol_cwin (r : Option Symbol) (s : State) : (showSymbol r s).cwin = s.cwin := rfl
@[simp] theorem showSymbol_freq (r : Option Symbol) (s : State) : (showSymbol r s).freq = s.freq := rfl
@[simp] theorem showSymbol_origCount (r : Option Symbol) (s : State) : (showSymbol r s).origCount = s.origCount := rfl
@[simp] theorem showSymbol_node (r : Option Symbol) (s : State) : (showSymbol r s).node = s.node := rfl
@[simp] theorem showSymbol_nodeCnt (r : Option Symbol) (s : State) : (showSymbol r s).nodeCnt = s.nodeCnt := rfl
@[simp] theorem showSymbol_inq (r : Option Symbol) (s : State) : (showSymbol r s).inq = s.inq := rfl
@[simp] theorem showSymbol_root (r : Option Symbol) (s : State) : (showSymbol r s).root = s.root := rfl
@[simp] theorem showSymbol_cbLen (r : Option Symbol) (s : State) : (showSymbol r s).cbLen = s.cbLen := rfl
@[simp] theorem showSymbol_cbCw (r : Option Symbol) (s : State) : (showSymbol r s).cbCw = s.cbCw := rfl
@[simp] theorem showSymbol_compBits (r : Option Symbol) (s : State) : (showSymbol r s).compBits = s.compBits := rfl
@[simp] theorem showSymbol_walkNode (r : Option Symbol) (s : State) : (showSymbol r s).walkNode = s.walkNode := rfl
@[simp] theorem showSymbol_walkDead (r : Option Symbol) (s : State) : (showSymbol r s).walkDead = s.walkDead := rfl
@[simp] theorem showSymbol_encOut (r : Option Symbol) (s : State) : (showSymbol r s).encOut = s.encOut := rfl
@[simp] theorem showSymbol_decOut (r : Option Symbol) (s : State) : (showSymbol r s).decOut = s.decOut := rfl
@[simp] theorem showSymbol_reads (r : Option Symbol) (s : State) : (showSymbol r s).reads = s.reads := rfl
@[simp] theorem showSymbol_host (r : Option Symbol) (s : State) : (showSymbol r s).host = s.host := rfl
@[simp] theorem showSymbol_schedule (r : Option Symbol) (s : State) : (showSymbol r s).schedule = s.schedule := rfl
@[simp] theorem showSymbol_freeCtr (r : Option Symbol) (s : State) : (showSymbol r s).freeCtr = s.freeCtr := rfl

/-! ### showNode -/

@[simp] theorem showNode_cmdLatch (n : NodeRec) (s : State) : (showNode n s).cmdLatch = s.cmdLatch := rfl
@[simp] theorem showNode_busy (n : NodeRec) (s : State) : (showNode n s).busy = s.busy := rfl
@[simp] theorem showNode_phase (n : NodeRec) (s : State) : (showNode n s).phase = s.phase := rfl
@[simp] theorem showNode_err (n : NodeRec) (s : State) : (showNode n s).err = s.err := rfl
@[simp] theorem showNode_errSeen (n : NodeRec) (s : State) : (showNode n s).errSeen = s.errSeen := rfl
@[simp] theorem showNode_cwinLen (n : NodeRec) (s : State) : (showNode n s).cwinLen = s.cwinLen := rfl
@[simp] theorem showNode_cwin (n : NodeRec) (s : State) : (showNode n s).cwin = s.cwin := rfl
@[simp] theorem showNode_freq (n : NodeRec) (s : State) : (showNode n s).freq = s.freq := rfl
@[simp] theorem showNode_origCount (n : NodeRec) (s : State) : (showNode n s).origCount = s.origCount := rfl
@[simp] theorem showNode_node (n : NodeRec) (s : State) : (showNode n s).node = s.node := rfl
@[simp] theorem showNode_nodeCnt (n : NodeRec) (s : State) : (showNode n s).nodeCnt = s.nodeCnt := rfl
@[simp] theorem showNode_inq (n : NodeRec) (s : State) : (showNode n s).inq = s.inq := rfl
@[simp] theorem showNode_root (n : NodeRec) (s : State) : (showNode n s).root = s.root := rfl
@[simp] theorem showNode_cbLen (n : NodeRec) (s : State) : (showNode n s).cbLen = s.cbLen := rfl
@[simp] theorem showNode_cbCw (n : NodeRec) (s : State) : (showNode n s).cbCw = s.cbCw := rfl
@[simp] theorem showNode_compBits (n : NodeRec) (s : State) : (showNode n s).compBits = s.compBits := rfl
@[simp] theorem showNode_walkNode (n : NodeRec) (s : State) : (showNode n s).walkNode = s.walkNode := rfl
@[simp] theorem showNode_walkDead (n : NodeRec) (s : State) : (showNode n s).walkDead = s.walkDead := rfl
@[simp] theorem showNode_encOut (n : NodeRec) (s : State) : (showNode n s).encOut = s.encOut := rfl
@[simp] theorem showNode_decOut (n : NodeRec) (s : State) : (showNode n s).decOut = s.decOut := rfl
@[simp] theorem showNode_reads (n : NodeRec) (s : State) : (showNode n s).reads = s.reads := rfl
@[simp] theorem showNode_host (n : NodeRec) (s : State) : (showNode n s).host = s.host := rfl
@[simp] theorem showNode_schedule (n : NodeRec) (s : State) : (showNode n s).schedule = s.schedule := rfl
@[simp] theorem showNode_freeCtr (n : NodeRec) (s : State) : (showNode n s).freeCtr = s.freeCtr := rfl

/-! ### clearState -/

@[simp] theorem clearState_cmdLatch (s : State) : (clearState s).cmdLatch = 0 := by simp only [clearState]
@[simp] theorem clearState_busy (s : State) : (clearState s).busy = s.busy := by simp only [clearState, freeArrays]
@[simp] theorem clearState_phase (s : State) : (clearState s).phase = .empty := by simp only [clearState]
@[simp] theorem clearState_err (s : State) : (clearState s).err = .ok := by simp only [clearState]
@[simp] theorem clearState_errSeen (s : State) : (clearState s).errSeen = false := by simp only [clearState]
@[simp] theorem clearState_cwinLen (s : State) :
    (clearState s).cwinLen = s.cwinLen := by simp only [clearState, freeArrays]
@[simp] theorem clearState_cwin (s : State) : (clearState s).cwin = s.cwin := by simp only [clearState, freeArrays]
@[simp] theorem clearState_res (s : State) : (clearState s).res = Results.zero := by simp only [clearState]
@[simp] theorem clearState_freq (s : State) : (clearState s).freq = Vector.replicate 256 0 := by simp only [clearState]
@[simp] theorem clearState_origCount (s : State) : (clearState s).origCount = 0 := by simp only [clearState]
@[simp] theorem clearState_nodeCnt (s : State) : (clearState s).nodeCnt = 0 := by simp only [clearState]
@[simp] theorem clearState_inq (s : State) : (clearState s).inq = 0 := by simp only [clearState]
@[simp] theorem clearState_root (s : State) : (clearState s).root = none := by simp only [clearState]
@[simp] theorem clearState_cbLen (s : State) : (clearState s).cbLen = Vector.replicate 256 0 := by simp only [clearState]
@[simp] theorem clearState_compBits (s : State) : (clearState s).compBits = 0 := by simp only [clearState]
@[simp] theorem clearState_walkNode (s : State) : (clearState s).walkNode = none := by simp only [clearState]
@[simp] theorem clearState_walkDead (s : State) : (clearState s).walkDead = false := by simp only [clearState]
@[simp] theorem clearState_encOut (s : State) :
    (clearState s).encOut = s.encOut := by simp only [clearState, freeArrays]
@[simp] theorem clearState_decOut (s : State) :
    (clearState s).decOut = s.decOut := by simp only [clearState, freeArrays]
@[simp] theorem clearState_reads (s : State) : (clearState s).reads = s.reads := by simp only [clearState, freeArrays]
@[simp] theorem clearState_host (s : State) : (clearState s).host = s.host := by simp only [clearState, freeArrays]
@[simp] theorem clearState_schedule (s : State) :
    (clearState s).schedule = s.schedule := by simp only [clearState, freeArrays]
@[simp] theorem clearState_freeCtr (s : State) :
    (clearState s).freeCtr = s.freeCtr + 1 := by simp only [clearState, freeArrays]

/-! ### resetState -/

@[simp] theorem resetState_cmdLatch (s : State) : (resetState s).cmdLatch = 0 := by simp only [resetState, clearState]
@[simp] theorem resetState_busy (s : State) : (resetState s).busy = false := by simp only [resetState, clearState]
@[simp] theorem resetState_phase (s : State) : (resetState s).phase = .empty := by simp only [resetState, clearState]
@[simp] theorem resetState_err (s : State) : (resetState s).err = .ok := by simp only [resetState, clearState]
@[simp] theorem resetState_errSeen (s : State) : (resetState s).errSeen = false := by simp only [resetState, clearState]
@[simp] theorem resetState_cwinLen (s : State) : (resetState s).cwinLen = 0 := by simp only [resetState, clearState]
@[simp] theorem resetState_cwin (s : State) : (resetState s).cwin = Vector.replicate 8 0 := by simp only [resetState, clearState]
@[simp] theorem resetState_res (s : State) : (resetState s).res = Results.zero := by simp only [resetState, clearState]
@[simp] theorem resetState_freq (s : State) : (resetState s).freq = Vector.replicate 256 0 := by simp only [resetState, clearState]
@[simp] theorem resetState_origCount (s : State) : (resetState s).origCount = 0 := by simp only [resetState, clearState]
@[simp] theorem resetState_nodeCnt (s : State) : (resetState s).nodeCnt = 0 := by simp only [resetState, clearState]
@[simp] theorem resetState_inq (s : State) : (resetState s).inq = 0 := by simp only [resetState, clearState]
@[simp] theorem resetState_root (s : State) : (resetState s).root = none := by simp only [resetState, clearState]
@[simp] theorem resetState_cbLen (s : State) : (resetState s).cbLen = Vector.replicate 256 0 := by simp only [resetState, clearState]
@[simp] theorem resetState_compBits (s : State) : (resetState s).compBits = 0 := by simp only [resetState, clearState]
@[simp] theorem resetState_walkNode (s : State) : (resetState s).walkNode = none := by simp only [resetState, clearState]
@[simp] theorem resetState_walkDead (s : State) : (resetState s).walkDead = false := by simp only [resetState, clearState]
@[simp] theorem resetState_encOut (s : State) :
    (resetState s).encOut = s.encOut := by simp only [clearState, freeArrays, resetState]
@[simp] theorem resetState_decOut (s : State) :
    (resetState s).decOut = s.decOut := by simp only [clearState, freeArrays, resetState]
@[simp] theorem resetState_reads (s : State) :
    (resetState s).reads = s.reads := by simp only [clearState, freeArrays, resetState]
@[simp] theorem resetState_host (s : State) :
    (resetState s).host = s.host := by simp only [clearState, freeArrays, resetState]
@[simp] theorem resetState_schedule (s : State) :
    (resetState s).schedule = s.schedule := by simp only [clearState, freeArrays, resetState]
@[simp] theorem resetState_freeCtr (s : State) :
    (resetState s).freeCtr = s.freeCtr + 1 := by simp only [clearState, freeArrays, resetState]

/-! ### hostRead -/

@[simp] theorem hostRead_cmdLatch (r : HostReg) (s : State) : (hostRead r s).cmdLatch = s.cmdLatch := rfl
@[simp] theorem hostRead_busy (r : HostReg) (s : State) : (hostRead r s).busy = s.busy := rfl
@[simp] theorem hostRead_phase (r : HostReg) (s : State) : (hostRead r s).phase = s.phase := rfl
@[simp] theorem hostRead_err (r : HostReg) (s : State) : (hostRead r s).err = s.err := rfl
@[simp] theorem hostRead_errSeen (r : HostReg) (s : State) : (hostRead r s).errSeen = s.errSeen := rfl
@[simp] theorem hostRead_cwinLen (r : HostReg) (s : State) : (hostRead r s).cwinLen = s.cwinLen := rfl
@[simp] theorem hostRead_cwin (r : HostReg) (s : State) : (hostRead r s).cwin = s.cwin := rfl
@[simp] theorem hostRead_res (r : HostReg) (s : State) : (hostRead r s).res = s.res := rfl
@[simp] theorem hostRead_freq (r : HostReg) (s : State) : (hostRead r s).freq = s.freq := rfl
@[simp] theorem hostRead_origCount (r : HostReg) (s : State) : (hostRead r s).origCount = s.origCount := rfl
@[simp] theorem hostRead_node (r : HostReg) (s : State) : (hostRead r s).node = s.node := rfl
@[simp] theorem hostRead_nodeCnt (r : HostReg) (s : State) : (hostRead r s).nodeCnt = s.nodeCnt := rfl
@[simp] theorem hostRead_inq (r : HostReg) (s : State) : (hostRead r s).inq = s.inq := rfl
@[simp] theorem hostRead_root (r : HostReg) (s : State) : (hostRead r s).root = s.root := rfl
@[simp] theorem hostRead_cbLen (r : HostReg) (s : State) : (hostRead r s).cbLen = s.cbLen := rfl
@[simp] theorem hostRead_cbCw (r : HostReg) (s : State) : (hostRead r s).cbCw = s.cbCw := rfl
@[simp] theorem hostRead_compBits (r : HostReg) (s : State) : (hostRead r s).compBits = s.compBits := rfl
@[simp] theorem hostRead_walkNode (r : HostReg) (s : State) : (hostRead r s).walkNode = s.walkNode := rfl
@[simp] theorem hostRead_walkDead (r : HostReg) (s : State) : (hostRead r s).walkDead = s.walkDead := rfl
@[simp] theorem hostRead_encOut (r : HostReg) (s : State) : (hostRead r s).encOut = s.encOut := rfl
@[simp] theorem hostRead_decOut (r : HostReg) (s : State) : (hostRead r s).decOut = s.decOut := rfl
@[simp] theorem hostRead_reads (r : HostReg) (s : State) : (hostRead r s).reads = s.reads ++ [readReg r s] := rfl
@[simp] theorem hostRead_host (r : HostReg) (s : State) : (hostRead r s).host = s.host := rfl
@[simp] theorem hostRead_schedule (r : HostReg) (s : State) : (hostRead r s).schedule = s.schedule := rfl
@[simp] theorem hostRead_freeCtr (r : HostReg) (s : State) :
    (hostRead r s).freeCtr = if s.busy && isResReg r then s.freeCtr + 1 else s.freeCtr := rfl

/-! ### recordLeaf -/

@[simp] theorem recordLeaf_cmdLatch (p : LeafPath) (s : State) : (recordLeaf s p).cmdLatch = s.cmdLatch := rfl
@[simp] theorem recordLeaf_busy (p : LeafPath) (s : State) : (recordLeaf s p).busy = s.busy := rfl
@[simp] theorem recordLeaf_phase (p : LeafPath) (s : State) : (recordLeaf s p).phase = s.phase := rfl
@[simp] theorem recordLeaf_err (p : LeafPath) (s : State) : (recordLeaf s p).err = s.err := rfl
@[simp] theorem recordLeaf_errSeen (p : LeafPath) (s : State) : (recordLeaf s p).errSeen = s.errSeen := rfl
@[simp] theorem recordLeaf_cwinLen (p : LeafPath) (s : State) : (recordLeaf s p).cwinLen = s.cwinLen := rfl
@[simp] theorem recordLeaf_cwin (p : LeafPath) (s : State) : (recordLeaf s p).cwin = s.cwin := rfl
@[simp] theorem recordLeaf_res (p : LeafPath) (s : State) : (recordLeaf s p).res = s.res := rfl
@[simp] theorem recordLeaf_freq (p : LeafPath) (s : State) : (recordLeaf s p).freq = s.freq := rfl
@[simp] theorem recordLeaf_origCount (p : LeafPath) (s : State) : (recordLeaf s p).origCount = s.origCount := rfl
@[simp] theorem recordLeaf_node (p : LeafPath) (s : State) : (recordLeaf s p).node = s.node := rfl
@[simp] theorem recordLeaf_nodeCnt (p : LeafPath) (s : State) : (recordLeaf s p).nodeCnt = s.nodeCnt := rfl
@[simp] theorem recordLeaf_inq (p : LeafPath) (s : State) : (recordLeaf s p).inq = s.inq := rfl
@[simp] theorem recordLeaf_root (p : LeafPath) (s : State) : (recordLeaf s p).root = s.root := rfl
@[simp] theorem recordLeaf_cbLen (p : LeafPath) (s : State) :
    (recordLeaf s p).cbLen = s.cbLen.set p.sym.toNat (BitVec.ofNat 8 p.path.length) (symbol_lt p.sym) := rfl
@[simp] theorem recordLeaf_cbCw (p : LeafPath) (s : State) :
    (recordLeaf s p).cbCw = s.cbCw.set p.sym.toNat (BitVec.ofNat 255 (codeVal p.path)) (symbol_lt p.sym) := rfl
@[simp] theorem recordLeaf_compBits (p : LeafPath) (s : State) :
    (recordLeaf s p).compBits = s.compBits + p.weight.setWidth 64 * BitVec.ofNat 64 p.path.length := rfl
@[simp] theorem recordLeaf_walkNode (p : LeafPath) (s : State) : (recordLeaf s p).walkNode = s.walkNode := rfl
@[simp] theorem recordLeaf_walkDead (p : LeafPath) (s : State) : (recordLeaf s p).walkDead = s.walkDead := rfl
@[simp] theorem recordLeaf_encOut (p : LeafPath) (s : State) : (recordLeaf s p).encOut = s.encOut := rfl
@[simp] theorem recordLeaf_decOut (p : LeafPath) (s : State) : (recordLeaf s p).decOut = s.decOut := rfl
@[simp] theorem recordLeaf_reads (p : LeafPath) (s : State) : (recordLeaf s p).reads = s.reads := rfl
@[simp] theorem recordLeaf_host (p : LeafPath) (s : State) : (recordLeaf s p).host = s.host := rfl
@[simp] theorem recordLeaf_schedule (p : LeafPath) (s : State) : (recordLeaf s p).schedule = s.schedule := rfl
@[simp] theorem recordLeaf_freeCtr (p : LeafPath) (s : State) : (recordLeaf s p).freeCtr = s.freeCtr := rfl

end Sys2Proof.Machine
end

