-- ==== Sys2Proof/Laws/Ops.lean ====
section
/-! SUPPORT. What each shared operation does, said once: the arrays by symbol, the frequency entries, allocation, the
queue and its minimum, and bit strings. -/

namespace Sys2Proof.Machine

/-! ## Symbols and frequency entries -/

theorem mem_allSymbols (x : Symbol) : x ∈ allSymbols := by
  refine List.mem_map.2 ⟨x.toNat, List.mem_range.2 (symbol_lt x), ?_⟩
  simp

theorem allSymbols_length : allSymbols.length = 256 := by simp [allSymbols]

theorem allSymbols_nodup : allSymbols.Nodup := by
  refine List.Nodup.map_on ?_ List.nodup_range
  intro a ha b hb h
  have ha := List.mem_range.1 ha
  have hb := List.mem_range.1 hb
  have := congrArg BitVec.toNat h
  simp only [BitVec.toNat_ofNat] at this
  omega

/-- FREQ's pairs are each symbol with its count. -/
theorem freqEntries_eq (s : State) : freqEntries s = allSymbols.map (fun x => (x, freqOf s x)) := by
  apply List.ext_getElem
  · simp [freqEntries, allSymbols]
  · intro k h1 h2
    have hk : k < 256 := by simpa [allSymbols] using h2
    simp [freqEntries, allSymbols, freqOf, Nat.mod_eq_of_lt hk]

theorem mem_present (s : State) (x : Symbol) : x ∈ present s ↔ freqOf s x ≠ 0 := by
  simp [present, freqEntries_eq, mem_allSymbols]

theorem present_eq_filter (s : State) : present s = allSymbols.filter (fun x => freqOf s x != 0) := by
  simp [present, freqEntries_eq, List.filter_map, Function.comp_def]

theorem present_nodup (s : State) : (present s).Nodup := by
  rw [present_eq_filter]
  exact allSymbols_nodup.filter _

theorem present_length_le (s : State) : (present s).length ≤ 256 := by
  rw [present_eq_filter, ← allSymbols_length]
  exact List.length_filter_le _ _

/-- A counted byte's own count goes up by one, and every other count stays (R151). -/
theorem freqOf_countByte (x y : Symbol) (s : State) :
    freqOf (countByte x s) y = if x = y then freqOf s y + 1 else freqOf s y := by
  by_cases h : x = y
  · subst h; simp [freqOf, countByte]
  · have : x.toNat ≠ y.toNat := fun e => h (BitVec.eq_of_toNat_eq e)
    simp [freqOf, countByte, h, this]

theorem freqOf_discardTally (x : Symbol) (s : State) : freqOf (discardTally s) x = 0 := by
  simp [freqOf, discardTally]

/-! ## Allocation -/

/-- Everything an allocation does: the next free record is written and NODE_CNT moves past it (R57). -/
theorem alloc_eq_some {n : NodeRec} {s t : State} {i : NodeIdx} (h : alloc n s = some (i, t)) :
    i.val = s.nodeCnt.val ∧ t.nodeCnt.val = s.nodeCnt.val + 1 ∧ t.node = s.node.set i.val n i.isLt ∧
      t = { s with node := t.node, nodeCnt := t.nodeCnt } := by
  unfold alloc at h
  split at h
  · rename_i hlt
    obtain ⟨rfl, rfl⟩ := Prod.mk.inj (Option.some.inj h)
    exact ⟨rfl, rfl, rfl, rfl⟩
  · cases h

theorem alloc_isSome (n : NodeRec) (s : State) : (alloc n s).isSome = true ↔ s.nodeCnt.val < 511 := by
  unfold alloc
  split <;> simp_all

/-! ## The queue -/

@[simp] theorem inQueue_enqueue (i j : NodeIdx) (s : State) :
    inQueue (enqueue i s) j = (inQueue s j || decide (j = i)) := by
  simp [inQueue, enqueue, Fin.ext_iff]

@[simp] theorem inQueue_dequeue (i j : NodeIdx) (s : State) :
    inQueue (dequeue i s) j = (inQueue s j && decide (j ≠ i)) := by
  simp [inQueue, dequeue, Fin.ext_iff]

theorem mem_queue (s : State) (i : NodeIdx) : i ∈ queue s ↔ inQueue s i = true := by
  simp [queue]

theorem queue_nodup (s : State) : (queue s).Nodup := (List.nodup_finRange 511).filter _

theorem queue_eq_nil (s : State) : queue s = [] ↔ ∀ i : NodeIdx, inQueue s i = false := by
  simp [queue, List.filter_eq_nil_iff]

/-- A removal takes exactly its node out of the queue. -/
theorem queue_dequeue (i : NodeIdx) (s : State) : queue (dequeue i s) = (queue s).filter (fun j => decide (j ≠ i)) := by
  simp only [queue, List.filter_filter, inQueue_dequeue]
  congr 1
  funext j
  rw [Bool.and_comm]

/-! ## The least key -/

theorem keyLe_refl (s : State) (i : NodeIdx) : keyLe s i i = true := by simp [keyLe]

theorem keyLe_total (s : State) (i j : NodeIdx) : keyLe s i j = true ∨ keyLe s j i = true := by
  simp only [keyLe, Bool.or_eq_true, Bool.and_eq_true, decide_eq_true_eq, beq_iff_eq, BitVec.toNat_eq]
  omega

theorem keyLe_trans {s : State} {i j k : NodeIdx} (h1 : keyLe s i j = true) (h2 : keyLe s j k = true) :
    keyLe s i k = true := by
  simp only [keyLe, Bool.or_eq_true, Bool.and_eq_true, decide_eq_true_eq, beq_iff_eq, BitVec.toNat_eq] at *
  omega

theorem keyLe_antisymm {s : State} {i j : NodeIdx} (h1 : keyLe s i j = true) (h2 : keyLe s j i = true) : i = j := by
  simp only [keyLe, Bool.or_eq_true, Bool.and_eq_true, decide_eq_true_eq, beq_iff_eq, BitVec.toNat_eq] at *
  exact Fin.ext (by omega)

theorem leastKey_eq_none (s : State) (l : List NodeIdx) : leastKey s l = none ↔ l = [] := by
  cases l with
  | nil => simp [leastKey]
  | cons i rest =>
    simp only [leastKey, reduceCtorEq, iff_false]
    split
    · simp
    · split <;> simp

/-- The least key is a member's, and no member's is smaller (R172). -/
theorem leastKey_spec {s : State} {l : List NodeIdx} {m : NodeIdx} (h : leastKey s l = some m) :
    m ∈ l ∧ ∀ i ∈ l, keyLe s m i = true := by
  induction l generalizing m with
  | nil => cases h
  | cons i rest ih =>
    simp only [leastKey] at h
    split at h
    · rename_i hn
      cases h
      rw [leastKey_eq_none] at hn
      subst hn
      exact ⟨List.mem_cons_self .., fun j hj => by rw [List.mem_singleton.1 hj]; exact keyLe_refl s i⟩
    · rename_i j hj
      obtain ⟨hm, hle⟩ := ih hj
      split at h <;> cases h
      · rename_i hij
        refine ⟨List.mem_cons_self .., fun k hk => ?_⟩
        rcases List.mem_cons.1 hk with rfl | hk
        · exact keyLe_refl s _
        · exact keyLe_trans hij (hle k hk)
      · rename_i hij
        refine ⟨List.mem_cons_of_mem _ hm, fun k hk => ?_⟩
        rcases List.mem_cons.1 hk with rfl | hk
        · exact (keyLe_total s _ _).resolve_left hij
        · exact hle k hk

theorem popMin_eq_none (s : State) : popMin s = none ↔ queue s = [] := by
  rw [← leastKey_eq_none s (queue s)]
  unfold popMin
  split <;> simp_all

/-- Everything a removal does: the queue's key-least member is taken out, and nothing else changes (R172). -/
theorem popMin_spec {s t : State} {m : NodeIdx} (h : popMin s = some (m, t)) :
    inQueue s m = true ∧ (∀ i, inQueue s i = true → keyLe s m i = true) ∧ t = dequeue m s := by
  unfold popMin at h
  split at h
  · cases h
  · rename_i k hk
    cases h
    obtain ⟨hm, hle⟩ := leastKey_spec hk
    exact ⟨(mem_queue s _).1 hm, fun i hi => hle i ((mem_queue s i).2 hi), rfl⟩

/-! ## Node references as fields -/

@[simp] theorem refField_none : refField none = 0x1FF := rfl

/-- A 9-bit field names every index of the node memory (R24, R47). -/
@[simp] theorem refField_some_toNat (i : NodeIdx) : (refField (some i)).toNat = i.val := by
  have := i.isLt
  simp only [refField, BitVec.toNat_ofNat]
  omega

/-! ## Bit strings -/

@[simp] theorem codeBits_length {w : Nat} (len : Nat) (v : BitVec w) : (codeBits len v).length = len := by
  simp [codeBits]

theorem codeVal_append (c : List Bool) (b : Bool) : codeVal (c ++ [b]) = 2 * codeVal c + b.toNat := by
  simp [codeVal]

theorem codeVal_lt (c : List Bool) : codeVal c < 2 ^ c.length := by
  induction c using List.reverseRecOn with
  | nil => simp [codeVal]
  | append_singleton c b ih =>
    rw [codeVal_append, List.length_append, List.length_singleton, pow_succ]
    have := b.toNat_le
    omega

/-- The bits held in a vector that is wide enough are the string whose value it holds (R25, R44). -/
theorem codeBits_codeVal {w : Nat} (c : List Bool) (h : c.length ≤ w) :
    codeBits c.length (BitVec.ofNat w (codeVal c)) = c := by
  induction c using List.reverseRecOn with
  | nil => simp [codeBits]
  | append_singleton c b ih =>
    rw [List.length_append, List.length_singleton] at h ⊢
    have ih := ih (by omega)
    have key : ∀ k, (codeVal (c ++ [b])).testBit (k + 1) = (codeVal c).testBit k := by
      intro k
      rw [codeVal_append, Nat.testBit_succ]
      congr 1
      have := b.toNat_le
      omega
    have low : (codeVal (c ++ [b])).testBit 0 = b := by
      rw [codeVal_append]
      cases b <;> simp [Nat.testBit_zero]
    simp only [codeBits, BitVec.getLsbD_ofNat] at ih ⊢
    rw [List.range_succ, List.map_append, List.map_singleton]
    congr 1
    · rw [← ih]
      simp only [ih]
      conv_rhs => rw [← ih]
      apply List.map_congr_left
      intro k hk
      have hk := List.mem_range.1 hk
      have e : c.length + 1 - 1 - k = (c.length - 1 - k) + 1 := by omega
      rw [e, key]
      have h1 : c.length - 1 - k + 1 < w := by omega
      have h2 : c.length - 1 - k < w := by omega
      simp [h1, h2]
    · have h0 : 0 < w := by omega
      simp [h0, low]

/-- Bit 32k + j of the vector is bit j of word k (R44, R84). -/
theorem vecOfWords_getLsbD (x : Vector Word 8) (k : Fin 8) {j : Nat} (hj : j < 32) :
    (vecOfWords x).getLsbD (32 * k.val + j) = x[k].getLsbD j := by
  obtain ⟨k, hk⟩ := k
  have hk' : k = 0 ∨ k = 1 ∨ k = 2 ∨ k = 3 ∨ k = 4 ∨ k = 5 ∨ k = 6 ∨ k = 7 := by omega
  unfold vecOfWords
  rcases hk' with rfl | rfl | rfl | rfl | rfl | rfl | rfl | rfl <;>
    simp only [BitVec.getLsbD_append] <;>
    · repeat' first
        | rw [if_pos (by omega)]
        | rw [if_neg (by omega)]
      simp only [Fin.getElem_fin]
      exact congrArg (BitVec.getLsbD _) (by omega)

/-- Eight words hold the vector they were taken from (R46). -/
theorem vecOfWords_wordsOfVec (v : BitVec 256) : vecOfWords (wordsOfVec v) = v := by
  apply BitVec.eq_of_getLsbD_eq
  intro i hi
  have h := vecOfWords_getLsbD (wordsOfVec v) ⟨i / 32, by omega⟩ (j := i % 32) (by omega)
  have e : 32 * (i / 32) + i % 32 = i := by omega
  simp only [e] at h
  rw [h]
  simp only [wordsOfVec, Fin.getElem_fin, Vector.getElem_ofFn, BitVec.getLsbD_extractLsb', e]
  simp; omega

end Sys2Proof.Machine
end

