-- ==== Sys2Proof/Laws/PerInstr.lean ====
section
/-! SUPPORT. Facts about each command as syntax, one lemma per constructor of Instr: its operand fits its format (R112),
and the word it encodes to selects its own row of the opcode map (R116), so RSV and every fixed ARG bit are 0. -/

namespace Sys2Proof.Laws.EncodeSelects

/-- The operand fits, and the encoded word selects the command's own row. -/
abbrev Statement (i : Instr) : Prop := i.WellFormed ∧ i.mnemonic.row.selects (encode i) = true

theorem nop : Statement .nop := by decide
theorem clear : Statement .clear := by decide
theorem tallyByte (s : Symbol) : Statement (.tallyByte s) := ⟨s.isLt, by revert s; decide +kernel⟩
theorem tallyAbort : Statement .tallyAbort := by decide
theorem build : Statement .build := by decide
theorem codewordOf (s : Symbol) : Statement (.codewordOf s) := ⟨s.isLt, by revert s; decide +kernel⟩
theorem encodeSym (s : Symbol) : Statement (.encodeSym s) := ⟨s.isLt, by revert s; decide +kernel⟩
theorem symbolOf : Statement .symbolOf := by decide
theorem decodeBit (b : Bool) : Statement (.decodeBit b) := by cases b <;> decide
theorem decodeFlush : Statement .decodeFlush := by decide
theorem sizes : Statement .sizes := by decide
theorem nodeRead (i : BitVec 9) : Statement (.nodeRead i) := ⟨i.isLt, by revert i; decide +kernel⟩

end Sys2Proof.Laws.EncodeSelects
end

