-- ==== Sys2Proof/Laws/Step.lean ====
section
/-! SUPPORT. What a step can do, said once: the register map, an access's outcome, the turns, and the cases of a step,
a core step and a BUILD micro-step. -/

namespace Sys2Proof.Machine

/-! ## The register map -/

/-- Each offset of R31 selects its own register. -/
theorem regAt_offset (r : HostReg) : regAt r.offset = some r := by
  cases r with
  | cwin k => revert k; decide
  | resCw k => revert k; decide
  | reserved k => revert k; decide
  | _ => decide

theorem offset_lt (r : HostReg) : r.offset < 128 := by
  cases r <;> simp only [HostReg.offset] <;> omega

theorem offset_mod_four (r : HostReg) : r.offset % 4 = 0 := by
  cases r <;> simp only [HostReg.offset] <;> omega

/-- A `RD` or `WR` line's address selects the register it names (R81, R122). -/
theorem select_offset (r : HostReg) : select (Config.hufBase + r.offset) 4 = .reg r := by
  have h := offset_lt r
  have h1 : (Config.hufBase + r.offset) / 128 = Config.hufBlock := by unfold Config.hufBase; omega
  have h2 : (Config.hufBase + r.offset) % 128 = r.offset := by unfold Config.hufBase; omega
  have h3 : (Config.hufBase + r.offset) % 4 = 0 := by have := offset_mod_four r; unfold Config.hufBase; omega
  simp [select, h1, h2, h3, regAt_offset]

/-- An access that is no aligned word selects nothing, wherever it lies (R83). -/
theorem select_notAWord {addr size : Nat} (h : size ≠ 4 ∨ addr % 4 ≠ 0) : select addr size = .notAWord := by
  simp only [select, if_pos h]

/-- An aligned word of another 128-byte block is outside the window (R80, R81). -/
theorem select_outside {addr : Nat} (ha : addr % 4 = 0) (hb : addr / 128 ≠ Config.hufBlock) :
    select addr 4 = .outside := by
  simp [select, ha, hb]

theorem onSelected_offset (r : HostReg) (f : HostReg → State) :
    onSelected (Config.hufBase + r.offset) 4 f = .next (f r) := by
  simp [onSelected, select_offset]

/-- An access that goes on is one of a register. -/
theorem onSelected_next {addr size : Nat} {f : HostReg → State} {t : State} (h : onSelected addr size f = .next t) :
    ∃ r, select addr size = .reg r ∧ t = f r := by
  unfold onSelected at h
  split at h
  · rename_i r hr
    exact ⟨r, hr, by injection h with h; exact h.symm⟩
  · cases h
  · cases h

/-! ## The turns -/

/-- A host line other than a write always has a step (R16, R88, R300). -/
theorem hostReady_of_ne_wr {s : State} {l : HostLine} {rest : List HostLine} (h : s.host = l :: rest)
    (hl : ∀ addr size v, l ≠ .wr addr size v) : hostReady s = true := by
  cases l with
  | wr addr size v => exact absurd rfl (hl addr size v)
  | _ => simp [hostReady, h]

/-- A write has one only while BUSY = 0 (R88). -/
theorem hostReady_wr {s : State} {addr size : Nat} {v : Word} {rest : List HostLine}
    (h : s.host = .wr addr size v :: rest) : hostReady s = !s.busy := by
  simp [hostReady, h]

/-! ## Reads -/

/-- With BUSY = 0 a read returns what the register holds (R89). -/
theorem readReg_idle (r : HostReg) {s : State} (h : s.busy = false) : readReg r s = regValue s r := by
  simp [readReg, h]

/-! ## The step -/

@[simp] theorem afterTurn_host (s : State) : (afterTurn s).host = s.host := by unfold afterTurn; split <;> rfl

/-- Only the schedule can differ after a choice of turn. -/
theorem afterTurn_eq (s : State) : ∃ l, afterTurn s = { s with schedule := l } := by
  unfold afterTurn
  split
  · exact ⟨_, rfl⟩
  · exact ⟨s.schedule, rfl⟩

/-- A step that goes on is the state held, a core step, or a host step (R16 to R18). -/
theorem step_cases {s t : State} (h : step s = .next t) :
    (turn s = none ∧ t = s) ∨ (turn s = some .core ∧ coreStep (afterTurn s) = .next t) ∨
      (turn s = some .host ∧ hostStep (afterTurn s) = .next t) := by
  unfold step at h
  split at h
  · exact .inr (.inl ⟨‹_›, h⟩)
  · exact .inr (.inr ⟨‹_›, h⟩)
  · injection h with h
    exact .inl ⟨‹_›, h.symm⟩

/-- A core step runs the decoded command, or raises ILLEGAL_CMD (R120). -/
theorem coreStep_cases {s t : State} (h : coreStep s = .next t) :
    (∃ i, decode s.cmdLatch = .ok i ∧ exec i s = .next t) ∨
      (∃ e, decode s.cmdLatch = .error e ∧ t = raise .illegalCmd s) := by
  unfold coreStep at h
  split at h
  · exact .inl ⟨_, ‹_›, h⟩
  · injection h with h
    exact .inr ⟨_, ‹_›, h.symm⟩

/-- What a host step can do: nothing is left, a read, a write, a WAIT's read, or reset (R16, R122). -/
theorem hostStep_cases {s t : State} (h : hostStep s = .next t) :
    (s.host = [] ∧ t = s) ∨
    (∃ addr size rest r, s.host = .rd addr size :: rest ∧ select addr size = .reg r ∧
      t = hostRead r { s with host := rest }) ∨
    (∃ addr size v rest r, s.host = .wr addr size v :: rest ∧ select addr size = .reg r ∧
      t = hostWrite r v { s with host := rest }) ∨
    (∃ rest, s.host = .wait :: rest ∧ t = hostRead .status (if s.busy then s else { s with host := rest })) ∨
    (∃ landed rest, s.host = .reset landed :: rest ∧ t = hostReset landed { s with host := rest }) := by
  unfold hostStep at h
  split at h
  · injection h with h
    exact .inl ⟨‹_›, h.symm⟩
  · obtain ⟨r, hr, rfl⟩ := onSelected_next h
    exact .inr (.inl ⟨_, _, _, r, ‹_›, hr, rfl⟩)
  · obtain ⟨r, hr, rfl⟩ := onSelected_next h
    exact .inr (.inr (.inl ⟨_, _, _, _, r, ‹_›, hr, rfl⟩))
  · injection h with h
    exact .inr (.inr (.inr (.inl ⟨_, ‹_›, h.symm⟩)))
  · injection h with h
    exact .inr (.inr (.inr (.inr ⟨_, _, ‹_›, h.symm⟩)))

/-! ## The commands -/

/-- The codec commands' gate: an error outside INDEXED, the command's own body in it (R210). -/
theorem codecGate_next {s t : State} {o : Host.Outcome State Fault Refusal} (h : codecGate s o = .next t) :
    (s.phase ≠ .indexed ∧ t = raise .uninitialized s) ∨ (s.phase = .indexed ∧ o = .next t) := by
  unfold codecGate at h
  split at h
  · injection h with h
    exact .inl ⟨‹_›, h.symm⟩
  · exact .inr ⟨not_not.1 ‹_›, h⟩

/-- What the step after SEED or a MERGE can do (R176, R180, R181). -/
theorem mergeOrRoot_cases {s t : State} (h : mergeOrRoot s = .next t) :
    (popMin s = none ∧ t = rootEmpty s) ∨
    (∃ r u, popMin s = some (r, u) ∧ popMin u = none ∧ rootNode r u = .next t) ∨
    (∃ a b u v, popMin s = some (a, u) ∧ popMin u = some (b, v) ∧ mergeNodes a b v = .next t) := by
  unfold mergeOrRoot at h
  split at h
  · rename_i h1
    injection h with h
    exact .inl ⟨h1, h.symm⟩
  · rename_i a u h1
    split at h
    · rename_i h2
      exact .inr (.inl ⟨a, u, h1, h2, h⟩)
    · rename_i b v h2
      exact .inr (.inr ⟨a, b, u, v, h1, h2, h⟩)

theorem mergeNodes_next {a b : NodeIdx} {s t : State} (h : mergeNodes a b s = .next t) :
    ∃ p u, alloc (.internal (weightOf s a + weightOf s b) (some b) (some a)) s = some (p, u) ∧
      t = { enqueue p u with phase := .merging } := by
  unfold mergeNodes at h
  split at h
  · cases h
  · rename_i p u h1
    injection h with h
    exact ⟨p, u, h1, h.symm⟩

theorem rootNode_next {r : NodeIdx} {s t : State} (h : rootNode r s = .next t) :
    (isLeaf s r = true ∧ ∃ p u, alloc (.internal (weightOf s r) (some r) none) s = some (p, u) ∧
      t = { u with root := some p, phase := .rooted }) ∨
    (isLeaf s r = false ∧ t = { s with root := some r, phase := .rooted }) := by
  unfold rootNode at h
  split at h
  · rename_i hl
    split at h
    · cases h
    · rename_i p u h1
      injection h with h
      exact .inl ⟨hl, p, u, h1, h.symm⟩
  · rename_i hl
    injection h with h
    exact .inr ⟨Bool.eq_false_iff.2 hl, h.symm⟩

/-- INDEX completes exactly where the traversal does (R183). -/
theorem indexStep_next {s t : State} (h : indexStep s = .next t) :
    ∃ ls, treeLeaves s = some ls ∧ t = finish { restWalk (ls.foldl recordLeaf (emptyBook s)) with phase := .indexed } := by
  unfold indexStep at h
  split at h
  · cases h
  · injection h with h
    exact ⟨_, ‹_›, h.symm⟩

/-- What one core step of BUILD can do (R171). -/
theorem execBuild_cases {s t : State} (h : execBuild s = .next t) :
    (s.phase = .empty ∧ t = seedStep s) ∨ (queueing s.phase = true ∧ mergeOrRoot s = .next t) ∨
      (s.phase = .rooted ∧ indexStep s = .next t) ∨ (s.phase = .indexed ∧ t = raise .phaseErr s) := by
  unfold execBuild at h
  split at h
  · injection h with h
    exact .inl ⟨‹_›, h.symm⟩
  · rename_i hp
    exact .inr (.inl ⟨by rw [hp]; rfl, h⟩)
  · rename_i hp
    exact .inr (.inl ⟨by rw [hp]; rfl, h⟩)
  · exact .inr (.inr (.inl ⟨‹_›, h⟩))
  · injection h with h
    exact .inr (.inr (.inr ⟨‹_›, h.symm⟩))

end Sys2Proof.Machine
end

