-- ==== Sys2Proof/Laws/Tree.lean ====
section
/-! SUPPORT. The traversal (R183) and the reverse lookup (R228): how deep a path goes, what more levels add, what a new
node changes, and that walking a leaf's path finds it. -/

namespace Sys2Proof.Machine

/-- A leaf's own traversal. -/
theorem leafPaths_leaf {node : Vector NodeRec 511} {i : NodeIdx} {x : Symbol} {w : Word} (n : Nat)
    (h : node[i] = .leaf x w) : leafPaths (n + 1) node i = some [⟨x, w, []⟩] := by
  simp only [leafPaths, h]

/-- An internal node's traversal: its left side's leaves, then its right side's (R183). -/
theorem leafPaths_internal {node : Vector NodeRec 511} {i : NodeIdx} {w : Word} {l r : NodeRef} (n : Nat)
    (h : node[i] = .internal w l r) (all : List LeafPath) :
    leafPaths (n + 1) node i = some all ↔
      ∃ ls rs, leavesUnder (leafPaths n node) false l = some ls ∧ leavesUnder (leafPaths n node) true r = some rs ∧
        all = ls ++ rs := by
  simp only [leafPaths, h]
  constructor
  · intro e
    split at e
    · rename_i ls rs hl hr
      exact ⟨ls, rs, hl, hr, (Option.some.inj e).symm⟩
    · cases e
  · rintro ⟨ls, rs, hl, hr, rfl⟩
    rw [hl, hr]

/-- What the leaves under an edge are: those of the child, each seen through the edge. -/
theorem leavesUnder_eq_some {visit : NodeIdx → Option (List LeafPath)} {b : Bool} {c : NodeRef}
    {ls : List LeafPath} (h : leavesUnder visit b c = some ls) :
    (c = none ∧ ls = []) ∨ ∃ j ks, c = some j ∧ visit j = some ks ∧ ls = ks.map (LeafPath.under b) := by
  cases c with
  | none => exact .inl ⟨rfl, (Option.some.inj h).symm⟩
  | some j =>
    obtain ⟨ks, hk, rfl⟩ := Option.map_eq_some_iff.1 h
    exact .inr ⟨j, ks, rfl, hk, rfl⟩

theorem leavesUnder_mono {f g : NodeIdx → Option (List LeafPath)} (hfg : ∀ j ls, f j = some ls → g j = some ls)
    {b : Bool} {c : NodeRef} {ls : List LeafPath} (h : leavesUnder f b c = some ls) : leavesUnder g b c = some ls := by
  rcases leavesUnder_eq_some h with ⟨rfl, rfl⟩ | ⟨j, ks, rfl, hj, rfl⟩
  · rfl
  · simp [leavesUnder, hfg j ks hj]

/-- One more level changes no traversal that already succeeded. -/
theorem leafPaths_succ {node : Vector NodeRec 511} (n : Nat) (i : NodeIdx) (ls : List LeafPath)
    (h : leafPaths n node i = some ls) : leafPaths (n + 1) node i = some ls := by
  induction n generalizing i ls with
  | zero => cases h
  | succ n ih =>
    cases hi : node[i] with
    | leaf x w => rw [leafPaths_leaf _ hi] at h ⊢; exact h
    | internal w l r =>
      rw [leafPaths_internal _ hi] at h ⊢
      obtain ⟨a, b, ha, hb, rfl⟩ := h
      exact ⟨a, b, leavesUnder_mono ih ha, leavesUnder_mono ih hb, rfl⟩

/-- More levels change no traversal that already succeeded. -/
theorem leafPaths_mono {node : Vector NodeRec 511} {n m : Nat} {i : NodeIdx} {ls : List LeafPath}
    (h : leafPaths n node i = some ls) (hnm : n ≤ m) : leafPaths m node i = some ls := by
  induction hnm with
  | refl => exact h
  | step _ ih => exact leafPaths_succ _ _ _ ih

/-- Every path the traversal returns is shorter than its bound (R197). -/
theorem leafPaths_path_lt {node : Vector NodeRec 511} {n : Nat} {i : NodeIdx} {ls : List LeafPath}
    (h : leafPaths n node i = some ls) : ∀ p ∈ ls, p.path.length < n := by
  induction n generalizing i ls with
  | zero => cases h
  | succ n ih =>
    have sub : ∀ {b c ks}, leavesUnder (leafPaths n node) b c = some ks → ∀ p ∈ ks, p.path.length < n + 1 := by
      intro b c ks hk p hp
      rcases leavesUnder_eq_some hk with ⟨_, rfl⟩ | ⟨j, js, _, hj, rfl⟩
      · cases hp
      · obtain ⟨q, hq, rfl⟩ := List.mem_map.1 hp
        have := ih hj q hq
        simp only [LeafPath.under, List.length_cons]
        omega
    cases hi : node[i] with
    | leaf x w =>
      rw [leafPaths_leaf _ hi] at h
      cases h
      simp
    | internal w l r =>
      rw [leafPaths_internal _ hi] at h
      obtain ⟨a, b, ha, hb, rfl⟩ := h
      intro p hp
      rcases List.mem_append.1 hp with hp | hp
      · exact sub ha p hp
      · exact sub hb p hp

/-- A new record at index `k` changes no traversal below `k`, where children precede parents (R57). -/
theorem leafPaths_set {node : Vector NodeRec 511} {k : Nat} (hk : k < 511) (rec : NodeRec)
    (hbelow : ∀ j : NodeIdx, j.val < k → childrenBelow j.val node[j] = true) (n : Nat) (i : NodeIdx)
    (hi : i.val < k) : leafPaths n (node.set k rec hk) i = leafPaths n node i := by
  induction n generalizing i with
  | zero => rfl
  | succ n ih =>
    have hne : (node.set k rec hk)[i] = node[i] := by
      have : k ≠ i.val := by omega
      simp [this]
    have hb := hbelow i hi
    have child : ∀ (b : Bool) (c : NodeRef), (∀ j ∈ c, j.val < i.val) →
        leavesUnder (leafPaths n (node.set k rec hk)) b c = leavesUnder (leafPaths n node) b c := by
      intro b c hc
      cases c with
      | none => rfl
      | some j =>
        have := hc j rfl
        simp only [leavesUnder, ih j (by omega)]
    cases he : node[i] with
    | leaf x w => rw [leafPaths_leaf _ he, leafPaths_leaf _ (hne.trans he)]
    | internal w l r =>
      rw [he] at hb
      have hl : ∀ j ∈ l, j.val < i.val := by
        intro j hj
        cases hj
        cases r <;> simp_all [childrenBelow]
      have hr : ∀ j ∈ r, j.val < i.val := by
        intro j hj
        cases hj
        cases l <;> simp_all [childrenBelow]
      simp only [leafPaths, hne, he, child false l hl, child true r hr]

/-- Walking a leaf's path from where the traversal began ends at that leaf (R66, R186). -/
theorem symbolAt_path {node : Vector NodeRec 511} {n : Nat} {i : NodeIdx} {ls : List LeafPath}
    (h : leafPaths n node i = some ls) : ∀ p ∈ ls, symbolAt node (some i) p.path = some p.sym := by
  induction n generalizing i ls with
  | zero => cases h
  | succ n ih =>
    cases hi : node[i] with
    | leaf x w =>
      rw [leafPaths_leaf _ hi] at h
      cases h
      simp [symbolAt, hi]
    | internal w l r =>
      rw [leafPaths_internal _ hi] at h
      obtain ⟨a, b, ha, hb, rfl⟩ := h
      intro p hp
      have side : ∀ {e c ks}, leavesUnder (leafPaths n node) e c = some ks → child e l r = c → p ∈ ks →
          symbolAt node (some i) p.path = some p.sym := by
        intro e c ks hk hc hp
        rcases leavesUnder_eq_some hk with ⟨_, rfl⟩ | ⟨j, js, rfl, hj, rfl⟩
        · cases hp
        · obtain ⟨q, hq, rfl⟩ := List.mem_map.1 hp
          simp only [LeafPath.under, symbolAt, hi, hc]
          exact ih hj q hq
      rcases List.mem_append.1 hp with hp | hp
      · exact side ha rfl hp
      · exact side hb rfl hp

end Sys2Proof.Machine
end

