-- ==== Sys2Proof/Tests/Slice0.lean ====
section
/-! SUPPORT. The model's own tests. Expected values come from spec/30_encoding.md R123, spec/95_test_vectors.md and the
examples of the command rules; each test names its source. After them, a witness for every statement that has
hypotheses: a concrete state and operands that meet all of them together. -/

open Sys2Proof Sys2Proof.Machine

namespace Sys2Proof.Tests

set_option Elab.async false

/-! ## Decoding: words written out from R111 to R116 (R123, spec/95 section 2.1) -/

theorem test_decode_control :
    decode 0x00000000 = .ok .nop ∧ decode 0x01000000 = .ok .clear := by decide

theorem test_decode_tally :
    decode 0x10000061 = .ok (.tallyByte 0x61) ∧ decode 0x100000FF = .ok (.tallyByte 0xFF) ∧
    decode 0x11000000 = .ok .tallyAbort := by decide

theorem test_decode_build : decode 0x20000000 = .ok .build := by decide

theorem test_decode_codec :
    decode 0x30000062 = .ok (.codewordOf 0x62) ∧ decode 0x31000072 = .ok (.encodeSym 0x72) ∧
    decode 0x38000000 = .ok .symbolOf ∧ decode 0x39000000 = .ok (.decodeBit false) ∧
    decode 0x39000001 = .ok (.decodeBit true) ∧ decode 0x3A000000 = .ok .decodeFlush ∧
    decode 0x40000000 = .ok .sizes := by decide

theorem test_decode_inspect :
    decode 0x500001FE = .ok (.nodeRead 510) ∧ decode 0x500001FF = .ok (.nodeRead 511) := by decide

theorem test_decode_illegal :
    decode 0x12000000 = .error .unknownOpcode ∧ decode 0xFF000000 = .error .unknownOpcode ∧
    decode 0x10800061 = .error .reservedField ∧ decode 0x00000001 = .error .argumentBit ∧
    decode 0x10000100 = .error .argumentBit ∧ decode 0x39000002 = .error .argumentBit ∧
    decode 0x50000200 = .error .argumentBit := by decide

theorem test_decodeTableWord :
    decodeTableWord 32 0x31000072 = some (.encodeSym 0x72) ∧ decodeTableWord 32 0x31000172 = none := by decide

/-! ## The assembler's checks (R121, R122): one ill-formed term for each -/

theorem test_check_accepts_the_largest_operands :
    Written.check ⟨.tallyByte, some 255⟩ = .ok (.tallyByte 255) ∧
    Written.check ⟨.decodeBit, some 1⟩ = .ok (.decodeBit true) ∧
    Written.check ⟨.nodeRead, some 511⟩ = .ok (.nodeRead 511) ∧
    Written.check ⟨.build, none⟩ = .ok .build := by decide

theorem test_check_refuses_a_missing_operand : Written.check ⟨.codewordOf, none⟩ = .error .operandMissing := by decide

theorem test_check_refuses_an_unexpected_operand :
    Written.check ⟨.sizes, some 0⟩ = .error .operandUnexpected := by decide

theorem test_check_refuses_an_operand_out_of_range :
    Written.check ⟨.encodeSym, some 256⟩ = .error .operandOutOfRange ∧
    Written.check ⟨.decodeBit, some 2⟩ = .error .operandOutOfRange ∧
    Written.check ⟨.nodeRead, some 512⟩ = .error .operandOutOfRange := by decide

theorem test_expand_refuses_a_wide_value : expand (.wr .cwinLen (2 ^ 32)) = .error .valueTooWide := by decide

theorem test_expand_refuses_what_is_not_ascii : expand (.tally ['a', 'é']) = .error .notAscii := by decide

theorem test_expand_refuses_what_is_no_bit : expand (.decode ['0', '2']) = .error .notABit := by decide

theorem test_expand_refuses_a_long_lookup :
    expand (.lookup (List.replicate 256 '0')) = .error .codewordTooLong := by decide +kernel

theorem test_expand_refuses_an_ill_formed_command :
    expand (.command ⟨.decodeBit, some 2⟩) = .error (.command .operandOutOfRange) := by decide

/-- R122: a command alone is its CMD write, then WAIT. -/
theorem test_expand_command : expand (.command ⟨.tallyByte, some 0x61⟩) =
    .ok [.wr (Config.hufBase + 4) 4 0x10000061, .wait] := by rfl

/-! ## Small states -/

/-- The state an outcome goes on to. -/
def after (o : Host.Outcome State Fault Refusal) : Option State :=
  match o with
  | .next t => some t
  | .fault _ | .refused _ => none

theorem of_after {o : Host.Outcome State Fault Refusal} (h : (after o).isSome = true) : ∃ t, o = .next t := by
  cases o with
  | next t => exact ⟨t, rfl⟩
  | fault r => cases h
  | refused r => cases h

/-- As `of_after`, with what a test says of the next state. -/
theorem of_after_any {o : Host.Outcome State Fault Refusal} {p : State → Bool} (h : (after o).any p = true) :
    ∃ t, o = .next t ∧ p t = true := by
  cases o with
  | next t => exact ⟨t, rfl, h⟩
  | fault r => cases h
  | refused r => cases h

/-- "aabbc" tallied and BUILD latched (spec/95 P1). -/
def tallied : State := { State.reset with
  busy := true, cmdLatch := encode .build
  freq := ((State.reset.freq.set 97 2).set 98 2).set 99 1, origCount := 5 }

/-- The same after SEED (R194). -/
def seeded : State := { tallied with
  phase := .seeded, nodeCnt := 3, inq := 7
  node := ((State.reset.node.set 0 (.leaf 97 2)).set 1 (.leaf 98 2)).set 2 (.leaf 99 1) }

/-- After the first MERGE: nodes 1 and 3 are queued (R194). -/
def merged : State := { seeded with
  phase := .merging, nodeCnt := 4, inq := 0b1010, node := seeded.node.set 3 (.internal 3 (some 0) (some 2)) }

/-- After the second MERGE: node 4 is queued (R194). -/
def mergedTwice : State := { merged with
  nodeCnt := 5, inq := 0b10000, node := merged.node.set 4 (.internal 5 (some 3) (some 1)) }

/-- After ROOT. -/
def rooted : State := { mergedTwice with phase := .rooted, inq := 0, root := some 4 }

/-- The tree and code book of V-B6, INDEXED, with "01" in CWIN. -/
def aabbc : State := { rooted with
  cwinLen := 2, cwin := State.reset.cwin.set 0 1
  busy := false, phase := .indexed, walkNode := some 4, compBits := 8
  cbLen := ((State.reset.cbLen.set 97 2).set 98 1).set 99 2
  cbCw := ((State.reset.cbCw.set 97 0).set 98 1).set 99 1 }

/-- The tree of V-B2, "aaaa", INDEXED: the synthetic root's right child is NULL. -/
def aaaa : State := { State.reset with
  phase := .indexed, freq := State.reset.freq.set 97 4, origCount := 4, nodeCnt := 2
  node := (State.reset.node.set 0 (.leaf 97 4)).set 1 (.internal 4 (some 0) none)
  root := some 1, walkNode := some 1, compBits := 4, cbLen := State.reset.cbLen.set 97 1 }

/-- The one leaf of V-B2, seeded. -/
def oneLeaf : State := { State.reset with
  busy := true, cmdLatch := encode .build, phase := .seeded, freq := State.reset.freq.set 97 4, origCount := 4
  nodeCnt := 1, inq := 1, node := State.reset.node.set 0 (.leaf 97 4) }

/-! ## One step of each command -/

/-- R141: with ERR = 1 and ERRSEEN = 1, NOP leaves ERR = 0 and ERRSEEN = 1 (spec/95 2.2: 0x118 to 0x108). -/
theorem test_nop : (after (exec .nop { aabbc with err := .uninitialized, errSeen := true })).map statusWord =
    some 0x00000108 := by decide +kernel

/-- spec/95 2.2: CLEAR from INDEXED with the walk dead, CWIN_LEN = 5. -/
theorem test_clear : (after (exec .clear { aabbc with walkDead := true, cwinLen := 5 })).map
    (fun t => (statusWord t, t.cwinLen, freqOf t 97, t.nodeCnt.val)) = some (0, 5, 0, 0) := by decide +kernel

/-- spec/95 2.3: a second TALLY_BYTE 'a'. -/
theorem test_tallyByte : (after (exec (.tallyByte 97)
      { State.reset with freq := State.reset.freq.set 97 1, origCount := 1 })).map
    (fun t => (freqOf t 97, freqOf t 98, t.origCount, statusWord t)) = some (2, 0, 2, 0) := by decide +kernel

/-- spec/95 2.3: the byte count at its largest value, STATUS 0x150; in INDEXED the phase is checked first. -/
theorem test_tallyByte_refusals :
    (after (exec (.tallyByte 0) { State.reset with origCount := 0xFFFFFFFF })).map
      (fun t => (freqOf t 0, t.origCount, statusWord t)) = some (0, 0xFFFFFFFF, 0x150) ∧
    (after (exec (.tallyByte 97) { aabbc with origCount := 0xFFFFFFFF })).map statusWord = some 0x148 := by
  decide +kernel

/-- spec/95 2.3: TALLY_ABORT discards the tally and reports IO_ERROR, STATUS 0x120; in INDEXED nothing is discarded. -/
theorem test_tallyAbort :
    (after (exec .tallyAbort { tallied with busy := true })).map
      (fun t => (freqOf t 97, freqOf t 99, t.origCount, statusWord t)) = some (0, 0, 0, 0x120) ∧
    (after (exec .tallyAbort aabbc)).map (fun t => (freqOf t 97, t.origCount, t.err)) = some (2, 5, .phaseErr) := by
  decide +kernel

/-- R194: SEED's leaves; then MERGE 1 takes 'c' first and 'a' second. -/
theorem test_build_seed_and_merge :
    (after (exec .build tallied)).map (fun t => (t.phase, t.nodeCnt.val, t.inq, t.node[0], t.node[2])) =
      some (.seeded, 3, 7, .leaf 97 2, .leaf 99 1) ∧
    (after (exec .build seeded)).map (fun t => (t.phase, t.nodeCnt.val, t.inq, t.node[3])) =
      some (.merging, 4, 0b1010, .internal 3 (some 0) (some 2)) := by decide +kernel

/-- V-B2: the lone leaf goes beneath a synthetic root. R194: 'a' = "00", 'b' = "1", 'c' = "01", COMP_BITS = 8. -/
theorem test_build_root_and_index :
    (after (exec .build oneLeaf)).map (fun t => (t.phase, t.nodeCnt.val, t.inq, t.root, t.node[1])) =
      some (.rooted, 2, 0, some 1, .internal 4 (some 0) none) ∧
    (after (exec .build rooted)).map (fun t =>
      ([bookCodeword t 97, bookCodeword t 98, bookCodeword t 99, bookCodeword t 100], t.compBits, statusWord t)) =
      some ([[false, false], [true], [false, true], []], 8, 8) := by decide +kernel

/-- P1: CODEWORD_OF 'c' is "01"; 'd' is absent. -/
theorem test_codewordOf :
    (after (exec (.codewordOf 99) aabbc)).map (fun t => (t.res.len, t.res.cw[0])) = some (2, 1) ∧
    (after (exec (.codewordOf 100) aabbc)).map (fun t => (t.res.len, t.res.cw[0], t.err)) = some (0, 0, .ok) := by
  decide +kernel

/-- ENCODE_SYM 'c' emits 0 then 1; an absent symbol emits nothing (R222, R224). -/
theorem test_encodeSym :
    (after (exec (.encodeSym 99) aabbc)).map (fun t => (t.encOut, t.res.len)) = some ([false, true], 2) ∧
    (after (exec (.encodeSym 100) aabbc)).map (fun t => (t.encOut, t.err)) = some ([], .ok) := by decide +kernel

/-- SYMBOL_OF "01" is 'c', bits above L ignored; "0" is an internal node; "10" goes past a leaf (R229, R231). -/
theorem test_symbolOf :
    (after (exec .symbolOf { aabbc with cwinLen := 2, cwin := aabbc.cwin.set 0 0xFFFFFFFD })).map (fun t => t.res.sym) =
      some 99 ∧
    (after (exec .symbolOf { aabbc with cwinLen := 1, cwin := aabbc.cwin.set 0 6 })).map (fun t => t.res.sym) = some 0xFFFFFFFF ∧
    (after (exec .symbolOf { aabbc with cwinLen := 2, cwin := aabbc.cwin.set 0 2 })).map (fun t => t.res.sym) =
      some 0xFFFFFFFF := by decide +kernel

/-- DECODE_BIT 1 at rest emits 'b'; DECODE_BIT 0 emits nothing, STATUS 0x208 (spec/95 2.5's rows, on V-B6). -/
theorem test_decodeBit :
    (after (exec (.decodeBit true) aabbc)).map (fun t => (t.res.sym, t.decOut, statusWord t)) =
      some (98, [98], 0x008) ∧
    (after (exec (.decodeBit false) aabbc)).map (fun t => (t.res.sym, t.decOut, statusWord t)) =
      some (0xFFFFFFFF, [], 0x208) := by decide +kernel

/-- P2: DECODE_BIT 1 falls off the synthetic root's NULL child, STATUS 0x608; a dead walk emits nothing. -/
theorem test_decodeBit_dead :
    (after (exec (.decodeBit true) aaaa)).map (fun t => (t.res.sym, statusWord t)) = some (0xFFFFFFFF, 0x608) ∧
    (after (exec (.decodeBit false) { aaaa with walkDead := true })).map (fun t => (t.decOut, statusWord t)) =
      some ([], 0x608) := by decide +kernel

/-- P2: DECODE_FLUSH after the dead walk, STATUS 0x008. -/
theorem test_decodeFlush : (after (exec .decodeFlush { aaaa with walkDead := true })).map statusWord = some 0x008 := by
  decide +kernel

/-- P1: SIZES. -/
theorem test_sizes : (after (exec .sizes aabbc)).map
    (fun t => (t.res.orig, t.res.cbitsLo, t.res.csizeLo, t.res.tree)) = some (5, 8, 1, 0x00050004) := by decide +kernel

/-- spec/95 2.6: NODE_READ 0, 4 and 5 on V-B6. -/
theorem test_nodeRead :
    (after (exec (.nodeRead 0) aabbc)).map (fun t => (t.res.node0, t.res.node1)) = some (0x03FFFF61, 2) ∧
    (after (exec (.nodeRead 4) aabbc)).map (fun t => (t.res.node0, t.res.node1)) = some (0x80060100, 5) ∧
    (after (exec (.nodeRead 5) aabbc)).map (fun t => t.err) = some .badIndex := by decide +kernel

/-- spec/95 2.6: V-B2, NODE_READ 1; spec/95 2.7: CODEWORD_OF before any BUILD, STATUS 0x110. -/
theorem test_nodeRead_synthetic_root :
    (after (exec (.nodeRead 1) aaaa)).map (fun t => (t.res.node0, t.res.node1)) = some (0x8001FF00, 4) := by
  decide +kernel

/-- spec/95 2.7: an illegal word beats the phase, ERR = 3; the tree stays. -/
theorem test_illegal_word : (after (step { aabbc with busy := true, cmdLatch := 0x20000001 })).map
    (fun t => (t.err, t.phase, t.busy)) = some (.illegalCmd, .indexed, false) := by decide +kernel

/-- A word placed as the next fetch runs in the next step (spec/95 2.7: CODEWORD_OF in EMPTY, STATUS 0x110). -/
theorem test_withFetchWord : (after (step (State.reset.withFetchWord 32 0x30000061))).map statusWord = some 0x110 := by
  decide +kernel

/-- R95 and log 19: in ROOTED, ROOT is fixed and the walk not yet on it, STATUS shows BUSY and PHASE alone. -/
theorem test_status_in_rooted : statusWord rooted = 0x007 ∧ rooted.root ≠ rooted.walkNode := by decide

/-- R83, D3: a misaligned word just below the window is refused, not taken as an access elsewhere. -/
theorem test_select_misaligned : ∀ a, a + 3 = Config.hufBase → select a 4 = .notAWord := fun _ h =>
  select_notAWord (.inr (by unfold Config.hufBase at h; omega))

/-- P1: after SIZES a host that reads RES_CBITS_LO, RES_CBITS_HI and RES_TREE gets 8, 0 and 0x00050004. -/
theorem test_result_registers : (after (exec .sizes aabbc)).map
    (fun t => (regValue t .resCbitsLo, regValue t .resCbitsHi, regValue t .resTree)) = some (8, 0, 0x00050004) := by
  decide +kernel

/-- R31: the register map's offsets. -/
theorem test_register_map : regAt 0x04 = some .cmd ∧ regAt 0x2C = some (.cwin 7) ∧ regAt 0x54 = some (.resCw 7) ∧
    regAt 0x74 = some .resTree ∧ regAt 0x7C = some (.reserved 1) ∧ regAt 0x06 = none := by decide

/-! ## Witnesses: states and operands that meet the statements' hypotheses -/

theorem witness_DecodeOfEncode :
    (Instr.nodeRead 511).WellFormed ∧ (Instr.tallyByte 255).WellFormed ∧ (Instr.decodeBit true).WellFormed ∧
    Instr.build.WellFormed := by decide

theorem witness_EncodeOfDecoded : decode 0x500001FF = .ok (.nodeRead 511) := by decide

theorem witness_IllegalWordsRaiseIllegalCmd :
    decode ({ State.reset with cmdLatch := 0x20000001 } : State).cmdLatch = .error .argumentBit ∧
    decode ({ State.reset with cmdLatch := 0x20010000 } : State).cmdLatch = .error .reservedField ∧
    decode ({ State.reset with cmdLatch := 0x21000000 } : State).cmdLatch = .error .unknownOpcode := by decide +kernel

theorem witness_AtMostOneRowMatches : Mnemonic.tallyByte.row.selects 0x10000061 = true := by decide

/-- The core's turn with nothing else to do, with a host read pending, and with an illegal word latched. -/
theorem witness_StepRunsLatchedCommand :
    (turn { State.reset with busy := true } = some .core ∧ decode State.reset.cmdLatch = .ok .nop) ∧
    (turn { tallied with host := [.wait], schedule := [.core, .host] } = some .core ∧
      decode tallied.cmdLatch = .ok .build) ∧
    (turn { State.reset with busy := true, cmdLatch := 1 } = some .core ∧ decode 1 = .error .argumentBit) := by
  decide +kernel

theorem witness_CommandsCompleteInOneStep :
    turn seeded = some .core ∧
    (∃ t, exec .sizes State.reset = .next t) ∧
    (∃ t, exec .build tallied = .next t ∧ midBuild t.phase = true) ∧
    (∃ t, exec .build rooted = .next t ∧ (!midBuild t.phase) = true) ∧
    (QuietOutsideBuild mergedTwice ∧ ∃ t, exec .build mergedTwice = .next t ∧ (t.phase == .rooted) = true) :=
  ⟨by decide +kernel, ⟨_, rfl⟩, of_after_any (by decide +kernel), of_after_any (by decide +kernel),
    ⟨fun h => by simp [mergedTwice, merged] at h, fun h => by simp [mergedTwice, merged, queueing] at h, fun _ => rfl,
      fun _ => ⟨rfl, rfl, rfl, rfl⟩⟩,
    of_after_any (by decide +kernel)⟩

theorem witness_WritesAreHeldWhileBusy :
    (∃ s : State, s.host = .wr 0 4 7 :: [] ∧ s.busy = true) ∧ (∃ s : State, s.host = .wr 3 1 7 :: [] ∧ s.busy = false) :=
  ⟨⟨{ State.reset with host := [.wr 0 4 7], busy := true }, rfl, rfl⟩, ⟨{ State.reset with host := [.wr 3 1 7] }, rfl, rfl⟩⟩

/-- A read, WAIT and reset pending, idle and busy, with a schedule that names the host and one that is used up; and a busy
state with no host line left. -/
theorem witness_HostLinesHaveATurn :
    (∀ l ∈ [rdLine .status, .wait, .reset 0], ∀ busy ∈ [true, false], ∀ sched ∈ [[Agent.host], []],
      ∃ s : State, s.host = l :: [] ∧ (∀ addr size v, l ≠ .wr addr size v) ∧ s.busy = busy ∧ s.schedule = sched) ∧
    (tallied.host = [] ∧ tallied.busy = true) := by
  refine ⟨fun l hl busy _ sched _ =>
    ⟨{ State.reset with host := [l], busy := busy, schedule := sched }, rfl, ?_, rfl, rfl⟩, rfl, rfl⟩
  simp only [List.mem_cons, List.not_mem_nil, or_false] at hl
  rcases hl with rfl | rfl | rfl <;> simp [rdLine]

/-- The premise of FixedRegistersRead's clause on the result registers, in a state whose results differ. -/
theorem witness_FixedRegistersRead : ∃ s : State, s.busy = false ∧ s.res.cbitsLo ≠ s.res.cbitsHi :=
  ⟨{ State.reset with res := { Results.zero with cbitsLo := 8 } }, rfl, by decide⟩

theorem witness_CommandWriteLatches :
    ∃ s : State, s.busy = false ∧ s.host = wrLine .cmd 0x20000000 :: [.wait] :=
  ⟨{ State.reset with host := [wrLine .cmd 0x20000000, .wait] }, rfl, rfl⟩

theorem witness_InputWritesReachOneRegister :
    ∀ r ∈ [HostReg.cwinLen, .cwin 0, .cwin 7, .id, .status, .resCw 7, .reserved 1],
      ∃ s : State, s.busy = false ∧ r ≠ .cmd ∧ s.host = wrLine r 0xFFFFFFFF :: [] := fun r hr =>
  ⟨{ State.reset with host := [wrLine r 0xFFFFFFFF] }, rfl, by revert r; decide, rfl⟩

theorem witness_ReadsObserveAndChangeNothing :
    (∃ s : State, turn s = some .host ∧ s.host = rdLine .id :: [] ∧ s.busy = false) ∧
    (∃ s : State, turn s = some .host ∧ s.host = rdLine .resSym :: [] ∧ s.busy = true) :=
  ⟨⟨{ State.reset with host := [rdLine .id] }, rfl, rfl, rfl⟩,
    ⟨{ State.reset with host := [rdLine .resSym], busy := true, schedule := [.host] }, rfl, rfl, rfl⟩⟩

theorem witness_UnalignedAccessIsRefused :
    ((4 : Nat) ≠ 4 ∨ (Config.hufBase + 0x05) % 4 ≠ 0) ∧ ((2 : Nat) ≠ 4 ∨ (Config.hufBase + 0x7C) % 4 ≠ 0) ∧
    (∃ s : State, turn s = some .host ∧ s.host = .rd (Config.hufBase + 0x05) 4 :: []) ∧
    (∃ s : State, turn s = some .host ∧ s.host = .wr (Config.hufBase + 0x7C) 2 9 :: []) := by
  refine ⟨?_, ?_, ⟨{ State.reset with host := [.rd (Config.hufBase + 0x05) 4] }, rfl, rfl⟩,
    ⟨{ State.reset with host := [.wr (Config.hufBase + 0x7C) 2 9] }, rfl, rfl⟩⟩ <;> unfold Config.hufBase <;> omega

theorem witness_AccessOutsideTheWindowFaults :
    (Config.hufBase + 0x80) % 4 = 0 ∧
    (Config.hufBase + 0x80 < Config.hufBase ∨ Config.hufBase + 0x7F < Config.hufBase + 0x80) ∧
    (∃ s : State, turn s = some .host ∧ s.host = .rd (Config.hufBase + 0x80) 4 :: []) ∧
    (∃ s : State, turn s = some .host ∧ s.host = .wr (Config.hufBase + 0x80) 4 1 :: []) :=
  ⟨by unfold Config.hufBase; omega, by omega, ⟨{ State.reset with host := [.rd (Config.hufBase + 0x80) 4] }, rfl, rfl⟩,
    ⟨{ State.reset with host := [.wr (Config.hufBase + 0x80) 4 1] }, rfl, rfl⟩⟩

theorem witness_IdleBlockHoldsItsState : aabbc.busy = false ∧ aabbc.host = [] := ⟨rfl, rfl⟩

theorem witness_WaitPollsStatus :
    (∃ s : State, turn s = some .host ∧ s.host = .wait :: [] ∧ s.busy = false) ∧
    (∃ s : State, turn s = some .host ∧ s.host = .wait :: [] ∧ s.busy = true) :=
  ⟨⟨{ aabbc with host := [.wait] }, rfl, rfl, rfl⟩, ⟨{ seeded with host := [.wait], schedule := [.host] }, rfl, rfl, rfl⟩⟩

/-- The empty string and the longest. -/
theorem witness_LookupLoadsTheCodeword : ∀ n ∈ [0, 255], (List.replicate n true).length ≤ 255 ∧
    ∃ s : State, s.busy = false ∧ s.host = lookupLines (List.replicate n true) ++ [.wait] := fun n hn =>
  ⟨by simp only [List.length_replicate]; simp only [List.mem_cons, List.not_mem_nil, or_false] at hn; omega, { aabbc with host := lookupLines (List.replicate n true) ++ [.wait] }, rfl, rfl⟩

theorem witness_InputCodewordLayout :
    ∃ s : State, s.cwinLen.toNat = 255 ∧ (∀ i ∈ [1, 255], 1 ≤ i ∧ i ≤ s.cwinLen.toNat) :=
  ⟨{ State.reset with cwinLen := 255 }, by decide, by decide⟩

/-- Reset when idle, and while ENCODE_SYM, DECODE_BIT and an illegal word are latched. -/
theorem witness_ResetRestoresEverything :
    (∃ s : State, turn s = some .host ∧ s.host = .reset 0 :: [] ∧ s.busy = false) ∧
    (∃ s : State, turn s = some .host ∧ s.host = .reset 1 :: [.wait] ∧ s.busy = true) :=
  ⟨⟨{ State.reset with host := [.reset 0] }, rfl, rfl, rfl⟩,
    ⟨{ tallied with host := [.reset 1, .wait], schedule := [.host] }, rfl, rfl, rfl⟩⟩

theorem witness_ResetKeepsAnyPrefixOfTheEvents :
    ∀ c ∈ [(Instr.encodeSym 97, 1), (.encodeSym 97, 2), (.decodeBit true, 0), (.decodeBit true, 1)],
      ∃ s v : State, turn s = some .host ∧ s.host = .reset c.2 :: [] ∧ s.busy = true ∧ decode s.cmdLatch = .ok c.1 ∧
        exec c.1 s = .next v := by
  intro c hc
  refine ⟨{ aabbc with host := [.reset c.2], schedule := [.host], busy := true, cmdLatch := encode c.1 }, ?_⟩
  simp only [List.mem_cons, List.not_mem_nil, or_false] at hc
  rcases hc with rfl | rfl | rfl | rfl
  · exact ⟨_, rfl, rfl, rfl, by decide, rfl⟩
  · exact ⟨_, rfl, rfl, rfl, by decide, rfl⟩
  · exact ⟨_, rfl, rfl, rfl, by decide, rfl⟩
  · exact ⟨_, rfl, rfl, rfl, by decide, rfl⟩

theorem witness_ResetWithAnIllegalWordLatched :
    ∃ s : State, turn s = some .host ∧ s.host = .reset 0 :: [] ∧ decode s.cmdLatch = .error .argumentBit :=
  ⟨{ State.reset with host := [.reset 0], cmdLatch := 1 }, rfl, rfl, by decide⟩

theorem witness_NopFinishes : opcField 1 = 0x00 ∧ (1 : Word) ≠ 0 := by decide

theorem witness_TallyByteCounts :
    aabbc.phase ≠ .empty ∧
    ({ State.reset with origCount := 0xFFFFFFFF } : State).phase = .empty ∧
    ({ State.reset with origCount := 0xFFFFFFFE } : State).origCount ≠ 0xFFFFFFFF := by decide

theorem witness_TallyCountsTheText : State.reset.phase = .empty ∧ (∀ x, freqOf State.reset x = 0) ∧
    State.reset.origCount = 0 ∧ [(97 : Symbol), 98, 97].length < 2 ^ 32 :=
  ⟨rfl, fun x => by simp [freqOf, State.reset], rfl, by decide⟩

theorem witness_TallyAbortDiscards : aabbc.phase ≠ .empty ∧ tallied.phase = .empty := by decide

/-- Index 2 is a leaf's, index 3 the first that SEED leaves. -/
theorem witness_BuildSeedsTheLeaves : tallied.phase = .empty ∧ 99 ∈ (present tallied)[2]? ∧
    (present tallied).length ≤ (3 : NodeIdx).val := by decide +kernel

theorem witness_BuildMergesTheTwoLeast : queueing seeded.phase = true ∧ seeded.nodeCnt.val < 511 ∧
    inQueue seeded 2 = true ∧ (∀ i, inQueue seeded i = true → keyLe seeded 2 i = true) ∧
    inQueue seeded 0 = true ∧ (0 : NodeIdx) ≠ 2 ∧
    (∀ i, inQueue seeded i = true → i ≠ 2 → keyLe seeded 0 i = true) := by decide +kernel

theorem witness_BuildFixesTheRoot :
    (queueing Phase.seeded = true ∧ (∀ i, inQueue { State.reset with phase := .seeded } i = false)) ∧
    (queueing mergedTwice.phase = true ∧ (∀ i, inQueue mergedTwice i = true ↔ i = 4) ∧ isLeaf mergedTwice 4 = false) ∧
    (queueing oneLeaf.phase = true ∧ (∀ i, inQueue oneLeaf i = true ↔ i = 0) ∧ isLeaf oneLeaf 0 = true ∧
      (1 : NodeIdx).val = oneLeaf.nodeCnt.val) := by decide +kernel

theorem witness_BuildDerivesTheCodeBook : rooted.phase = .rooted ∧
    treeLeaves rooted = some [⟨97, 2, [false, false]⟩, ⟨99, 1, [false, true]⟩, ⟨98, 2, [true]⟩] ∧
    ([⟨97, 2, [false, false]⟩, ⟨99, 1, [false, true]⟩, ⟨98, 2, [true]⟩].map LeafPath.sym).Nodup := by decide +kernel

/-- The premise of BuildTwiceIsPhaseErr, CodewordOfShowsTheEntry, DecodeFlushRestsTheWalk and SizesReports; where a clause
says Safe, aabbc_safe below is its witness. -/
theorem witness_indexed : aabbc.phase = .indexed := rfl

theorem witness_CodecNeedsIndexed : State.reset.phase ≠ .indexed ∧ seeded.phase ≠ .indexed := by decide

/-- The present and the absent symbol; the first and the last bit of a codeword. -/
theorem witness_EncodeSymEmitsTheCodeword : aabbc.phase = .indexed ∧ cbLenOf aabbc 97 ≠ 0 ∧ cbLenOf aabbc 100 = 0 ∧
    (bookCodeword aabbc 97).length = 2 := by decide +kernel

/-- "1" reaches the leaf of 'b', and "0" the internal node 3. -/
theorem witness_SymbolOfWalksTheTree :
    (WalkReaches aabbc.node aabbc.root (inputCodeword { aabbc with cwinLen := 1 }) (some 1) ∧
      aabbc.node[1] = .leaf 98 2) ∧
    (WalkReaches aabbc.node aabbc.root (inputCodeword { aabbc with cwinLen := 1, cwin := aabbc.cwin.set 0 6 }) (some 3) ∧
      aabbc.node[3] = .internal 3 (some 0) (some 2)) := by
  have h1 : inputCodeword { aabbc with cwinLen := 1 } = [true] := by decide +kernel
  have h0 : inputCodeword { aabbc with cwinLen := 1, cwin := aabbc.cwin.set 0 6 } = [false] := by decide +kernel
  have hr : aabbc.node[(4 : NodeIdx)] = .internal 5 (some 3) (some 1) := by decide +kernel
  rw [h1, h0]
  exact ⟨⟨.right hr (.here _), by decide +kernel⟩, ⟨.left hr (.here _), by decide +kernel⟩⟩

/-- The walk dead, on NULL, on a leaf, over a NULL child, onto a leaf, and onto an internal node. -/
theorem witness_DecodeBitMovesTheWalk :
    ({ aabbc with walkDead := true } : State).walkDead = true ∧
    ({ aabbc with walkNode := none } : State).walkNode = none ∧
    isLeaf { aabbc with walkNode := some 0 } 0 = true ∧
    (aaaa.walkDead = false ∧ aaaa.walkNode = some 1 ∧ aaaa.node[(1 : NodeIdx)] = .internal 4 (some 0) none) ∧
    (aabbc.walkDead = false ∧ aabbc.walkNode = some 4 ∧ aabbc.node[(4 : NodeIdx)] = .internal 5 (some 3) (some 1) ∧
      aabbc.node[(1 : NodeIdx)] = .leaf 98 2 ∧ isLeaf aabbc 3 = false) := by decide +kernel

/-- Index 4 is the last allocated, 5 the first that is not; 0 is a leaf and 4 is internal. -/
theorem witness_NodeReadShowsTheRecord :
    aabbc.nodeCnt.val ≤ (5 : BitVec 9).toNat ∧ aabbc.nodeCnt.val ≤ (511 : BitVec 9).toNat ∧
    (4 : NodeIdx).val = (4 : BitVec 9).toNat ∧ (4 : NodeIdx).val < aabbc.nodeCnt.val ∧
    aabbc.node[(0 : NodeIdx)] = .leaf 97 2 ∧ aabbc.node[(4 : NodeIdx)] = .internal 5 (some 3) (some 1) := by
  decide +kernel

theorem witness_ErrorsChangeNothingElse :
    (∃ t, exec .tallyAbort tallied = .next t ∧ (!t.busy && t.err == .ioError) = true) ∧
    (∃ t, exec .sizes tallied = .next t ∧ (!t.busy && t.err == .uninitialized) = true) :=
  ⟨of_after_any (by decide +kernel), of_after_any (by decide +kernel)⟩

theorem witness_ErrSeenIsSticky :
    (∃ t, exec .clear tallied = .next t ∧ (!t.busy) = true) ∧ (∃ t, exec .nop tallied = .next t ∧ (!t.busy) = true) :=
  ⟨of_after_any (by decide +kernel), of_after_any (by decide +kernel)⟩

theorem witness_PortsOnlyGrow :
    (∃ t, step { aabbc with busy := true, cmdLatch := 0x31000063 } = .next t ∧ (t.encOut == [false, true]) = true) ∧
    (∃ t, exec (.decodeBit true) aabbc = .next t ∧ (t.decOut == [98]) = true) :=
  ⟨of_after_any (by decide +kernel), of_after_any (by decide +kernel)⟩

theorem witness_InputsAndResultsHaveOneWriter : (∃ t, exec .symbolOf aabbc = .next t) ∧ HostReg.status ≠ .cmd :=
  ⟨⟨_, rfl⟩, by decide⟩

theorem witness_TallyIsFrozenOutsideEmpty :
    seeded.phase ≠ .empty ∧ ∃ t, step seeded = .next t ∧ (t.phase != .empty) = true :=
  ⟨by decide, of_after_any (by decide +kernel)⟩

theorem witness_BuildLeavesTallyAndResults : ∃ t, exec .build seeded = .next t := of_after (by decide +kernel)

theorem witness_OnlyDecodeBitMovesTheWalk :
    (∀ b, Instr.decodeFlush ≠ .decodeBit b) ∧ ∃ t, exec .decodeFlush aabbc = .next t :=
  ⟨fun _ => by simp, ⟨_, rfl⟩⟩

/-! ### Safe states -/

theorem tallied_safe : Safe tallied :=
  ⟨by decide +kernel, by decide +kernel, ⟨fun _ => rfl, fun _ => rfl, fun _ => rfl, fun _ => ⟨rfl, rfl, rfl, rfl⟩⟩,
    by decide +kernel, by decide +kernel,
    ⟨fun h => by simp [tallied, State.reset, queueing] at h, fun h => by simp [tallied, State.reset, hasRoot] at h⟩,
    by decide +kernel, fun h => by simp [tallied, State.reset] at h⟩

/-- The same FREQ with ERRSEEN set and other node contents. -/
def talliedAgain : State := { tallied with errSeen := true, node := State.reset.node.set 9 (.leaf 1 1) }

theorem talliedAgain_safe : Safe talliedAgain :=
  ⟨by decide +kernel, by decide +kernel, ⟨fun _ => rfl, fun _ => rfl, fun _ => rfl, fun _ => ⟨rfl, rfl, rfl, rfl⟩⟩,
    by decide +kernel, by decide +kernel,
    ⟨fun h => by simp [talliedAgain, tallied, State.reset, queueing] at h,
      fun h => by simp [talliedAgain, tallied, State.reset, hasRoot] at h⟩,
    by decide +kernel, fun h => by simp [talliedAgain, tallied, State.reset] at h⟩

theorem seeded_safe : Safe seeded :=
  ⟨by decide +kernel, by decide +kernel, ⟨fun h => by simp [seeded] at h, fun h => by simp [seeded, queueing] at h, fun _ => rfl, fun _ => ⟨rfl, rfl, rfl, rfl⟩⟩,
    by decide +kernel, by decide +kernel,
    ⟨fun _ => by decide +kernel, fun h => by simp [seeded, hasRoot] at h⟩,
    by decide +kernel, fun h => by simp [seeded] at h⟩

theorem aabbc_rootLeaves :
    rootLeaves aabbc = [⟨97, 2, [false, false]⟩, ⟨99, 1, [false, true]⟩, ⟨98, 2, [true]⟩] := by decide +kernel

theorem aabbc_bookAgrees : BookAgrees aabbc := by
  intro _
  rw [aabbc_rootLeaves]
  decide +kernel

theorem aabbc_safe : Safe aabbc :=
  ⟨by decide +kernel, by decide +kernel, by decide +kernel, by decide +kernel, by decide +kernel,
    ⟨fun h => by simp [aabbc, queueing] at h, fun _ => by decide +kernel⟩,
    by decide +kernel, aabbc_bookAgrees⟩

/-- A MERGE step from a safe state: the hypotheses of StepKeepsSafe, and of SafeCoreStepCompletes. -/
theorem witness_StepKeepsSafe : Safe seeded ∧ ∃ t, step seeded = .next t ∧ (t.phase == .merging) = true :=
  ⟨seeded_safe, of_after_any (by decide +kernel)⟩

theorem witness_StepKeepsTally :
    TallyConserved tallied ∧ ∃ t, step { tallied with cmdLatch := 0x10000061 } = .next t ∧ (t.origCount == 6) = true :=
  ⟨tallied_safe.1, of_after_any (by decide +kernel)⟩

theorem witness_StepKeepsSequencer : SequencerSafe rooted ∧ ∃ t, step rooted = .next t ∧ (!t.busy) = true :=
  ⟨by decide +kernel, of_after_any (by decide +kernel)⟩

theorem witness_StepKeepsTreeShape :
    QuietOutsideBuild seeded ∧ TreeShaped seeded ∧ ∃ t, step seeded = .next t :=
  ⟨seeded_safe.2.2.1, seeded_safe.2.2.2.1, of_after (by decide +kernel)⟩

theorem witness_BuildTakesItsSteps : Safe tallied ∧ tallied.phase = .empty ∧ tallied.busy = true ∧
    tallied.cmdLatch = encode .build ∧ tallied.host = [] :=
  ⟨tallied_safe, rfl, rfl, rfl, rfl⟩

/-- Two states with one FREQ that differ elsewhere, after one step of BUILD. -/
theorem witness_BuildDependsOnFreqAlone :
    Safe tallied ∧ Safe talliedAgain ∧ tallied.freq = talliedAgain.freq ∧
      (talliedAgain.phase = .empty ∧ talliedAgain.busy = true ∧ talliedAgain.cmdLatch = encode .build ∧
        talliedAgain.host = []) ∧
      (∃ s', Sys2Proof.core.run 1 tallied = .next s') ∧ (∃ u', Sys2Proof.core.run 1 talliedAgain = .next u') :=
  ⟨tallied_safe, talliedAgain_safe, rfl, ⟨rfl, rfl, rfl, rfl⟩,
    of_after (o := Sys2Proof.core.run 1 tallied) (by decide +kernel),
    of_after (o := Sys2Proof.core.run 1 talliedAgain) (by decide +kernel)⟩

theorem witness_SymbolOfItsCodeword :
    Safe aabbc ∧ aabbc.phase = .indexed ∧ cbLenOf aabbc 99 ≠ 0 ∧ aabbc.cwinLen = cbLenOf aabbc 99 ∧
      inputCodeword aabbc = bookCodeword aabbc 99 :=
  ⟨aabbc_safe, rfl, by decide +kernel, by decide +kernel, by decide +kernel⟩

theorem witness_CodeIsPrefixFree : Safe aabbc ∧ aabbc.phase = .indexed ∧ (97 : Symbol) ≠ 98 ∧ cbLenOf aabbc 97 ≠ 0 ∧
    cbLenOf aabbc 98 ≠ 0 :=
  ⟨aabbc_safe, rfl, by decide, by decide +kernel, by decide +kernel⟩

theorem witness_DecodeOfEncodedText : Safe aabbc ∧ aabbc.phase = .indexed ∧ atRest aabbc = true ∧
    (∀ x ∈ [(99 : Symbol), 97, 98], cbLenOf aabbc x ≠ 0) :=
  ⟨aabbc_safe, rfl, by decide +kernel, by decide +kernel⟩

/-- The hypotheses of RootWeightIsOriginalSize, and of CompressedSizeLaw. -/
theorem witness_RootWeightIsOriginalSize : Safe aabbc ∧ aabbc.phase = .indexed ∧ aabbc.root = some 4 :=
  ⟨aabbc_safe, rfl, rfl⟩

end Sys2Proof.Tests
end

section
/-! PROOFS of the statements about the scope of the block (spec/00_scope.md): the turns and the step, the code book, what
SIZES and NODE_READ show, the compressed size, and how a command ends. -/

namespace Sys2Proof.Machine

/-! ### The turns (R15 to R18) -/

/-- Where the host has a step, it moves while BUSY = 0, and the schedule chooses while BUSY = 1. -/
theorem turn_of_hostReady {s : State} (h : hostReady s = true) :
    (s.busy = false → turn s = some .host) ∧ (s.busy = true → turn s = some (s.schedule.headD .core)) := by
  constructor <;> intro hb <;> simp [turn, h, hb]

/-- Where the host has no step, the core moves while BUSY = 1, and nobody does while BUSY = 0. -/
theorem turn_of_not_hostReady {s : State} (h : hostReady s = false) :
    turn s = if s.busy then some .core else none := by
  simp [turn, h]

theorem hostReady_nil {s : State} (h : s.host = []) : hostReady s = false := by simp [hostReady, h]

/-- The core has a step only while BUSY = 1 (R17). -/
theorem busy_of_turn_core {s : State} (h : turn s = some .core) : s.busy = true := by
  by_contra hb
  have hb : s.busy = false := Bool.eq_false_iff.2 hb
  cases hr : hostReady s with
  | true => simp [(turn_of_hostReady hr).1 hb] at h
  | false => simp [turn_of_not_hostReady hr, hb] at h

/-- While BUSY = 1 a choice of turn uses one schedule entry exactly where the host has a step too. -/
theorem afterTurn_busy {s : State} (h : s.busy = true) :
    afterTurn s = { s with schedule := if hostReady s then s.schedule.tail else s.schedule } := by
  cases hr : hostReady s with
  | true => simp [afterTurn, h, hr]
  | false => simp only [afterTurn, hr, Bool.and_false]; rfl

/-- A choice of turn uses no schedule entry where one of the agents has no step. -/
theorem afterTurn_of_not_both {s : State} (h : (s.busy && hostReady s) = false) : afterTurn s = s := by
  simp [afterTurn, h]

theorem step_core {s : State} (h : turn s = some .core) : step s = coreStep (afterTurn s) := by simp [step, h]

theorem step_host {s : State} (h : turn s = some .host) : step s = hostStep (afterTurn s) := by simp [step, h]

theorem coreStep_ok {s : State} {i : Instr} (h : decode s.cmdLatch = .ok i) : coreStep s = exec i s := by
  simp [coreStep, h]

theorem coreStep_error {s : State} {e : IllegalWord} (h : decode s.cmdLatch = .error e) :
    coreStep s = .next (raise .illegalCmd s) := by
  simp [coreStep, h, illegalCommand, fail]

/-- A choice of turn leaves the latched word. -/
@[simp] theorem afterTurn_cmdLatch (s : State) : (afterTurn s).cmdLatch = s.cmdLatch := by
  obtain ⟨l, hl⟩ := afterTurn_eq s
  rw [hl]

theorem hostStep_rd {s : State} {addr size : Nat} {rest : List HostLine} (h : s.host = .rd addr size :: rest) :
    hostStep s = onSelected addr size (fun r => hostRead r { s with host := rest }) := by
  simp [hostStep, h]

theorem hostStep_wr {s : State} {addr size : Nat} {v : Word} {rest : List HostLine}
    (h : s.host = .wr addr size v :: rest) :
    hostStep s = onSelected addr size (fun r => hostWrite r v { s with host := rest }) := by
  simp [hostStep, h]

/-- What a register holds does not depend on the model's own records of the host and the schedule. -/
theorem regValue_of_host_schedule (s : State) (l : List HostLine) (a : List Agent) (r : HostReg) :
    regValue { s with host := l, schedule := a } r = regValue s r := by
  cases r <;> rfl

/-- Settles O6, from the form of a core step and of a choice of turn. -/
theorem stepRunsLatchedCommand : Obligations.StepRunsLatchedCommand := by
  intro s ht
  refine ⟨afterTurn_busy (busy_of_turn_core ht), fun i hi => ?_, fun e he => ?_⟩
  · rw [step_core ht, coreStep_ok ((afterTurn_cmdLatch s).symm ▸ hi)]
  · rw [step_core ht, coreStep_error ((afterTurn_cmdLatch s).symm ▸ he)]
    rfl

/-- Settles O8, by whether the host's next line is a write. -/
theorem writesAreHeldWhileBusy : Obligations.WritesAreHeldWhileBusy := by
  refine ⟨fun s addr size v rest hw => ⟨fun hb => ?_, fun hb => ?_⟩, fun s l rest hl hne => ?_, fun s hh hb => ?_⟩
  · have hr : hostReady s = false := by rw [hostReady_wr hw, hb]; rfl
    have ht : turn s = some .core := by rw [turn_of_not_hostReady hr, hb]; rfl
    exact ⟨ht, by rw [step_core ht, afterTurn_of_not_both (by rw [hr, Bool.and_false])]⟩
  · have hr : hostReady s = true := by rw [hostReady_wr hw, hb]; rfl
    have ht : turn s = some .host := (turn_of_hostReady hr).1 hb
    exact ⟨ht, by rw [step_host ht, afterTurn_of_not_both (by rw [hb, Bool.false_and]), hostStep_wr hw]⟩
  · exact turn_of_hostReady (hostReady_of_ne_wr hl hne)
  · rw [turn_of_not_hostReady (hostReady_nil hh), hb]
    rfl

/-- Settles O16: neither agent has a step. -/
theorem idleBlockHoldsItsState : Obligations.IdleBlockHoldsItsState := by
  intro s hb hh
  have ht : turn s = none := by rw [turn_of_not_hostReady (hostReady_nil hh), hb]; rfl
  simp [step, ht]

/-- Settles O11: the read's address selects its register, and a choice of turn changes the schedule alone. -/
theorem readsObserveAndChangeNothing : Obligations.ReadsObserveAndChangeNothing := by
  intro s r rest ht hr
  obtain ⟨l, hl⟩ := afterTurn_eq s
  have hstep : step s = .next (hostRead r { s with schedule := l, host := rest }) := by
    rw [step_host ht, hl, hostStep_rd (s := { s with schedule := l }) hr, onSelected_offset]
  refine ⟨_, hstep, ?_, rfl⟩
  simp [hostRead, readReg, regValue_of_host_schedule]

/-- Settles O29, by unfolding the model's comparison. -/
theorem keyOrderIsLexicographic : Obligations.KeyOrderIsLexicographic := by
  intro s i j
  simp only [keyLe, Bool.or_eq_true, Bool.and_eq_true, decide_eq_true_eq, beq_iff_eq, BitVec.toNat_eq]

/-! ### The code book (R60, R183) -/

/-- A recorded leaf's entry is its path; every other entry stays. -/
theorem cbLenOf_recordLeaf (s : State) (p : LeafPath) (x : Symbol) :
    cbLenOf (recordLeaf s p) x = if p.sym = x then BitVec.ofNat 8 p.path.length else cbLenOf s x := by
  simp [cbLenOf, Vector.getElem_set, BitVec.toNat_inj]

theorem cbCwOf_recordLeaf (s : State) (p : LeafPath) (x : Symbol) :
    cbCwOf (recordLeaf s p) x = if p.sym = x then BitVec.ofNat 255 (codeVal p.path) else cbCwOf s x := by
  simp [cbCwOf, Vector.getElem_set, BitVec.toNat_inj]

/-- Recording leaves changes the code book and COMP_BITS alone. -/
theorem foldl_recordLeaf_frame (ls : List LeafPath) (s : State) :
    ls.foldl recordLeaf s = { s with
      cbLen := (ls.foldl recordLeaf s).cbLen, cbCw := (ls.foldl recordLeaf s).cbCw,
      compBits := (ls.foldl recordLeaf s).compBits } := by
  induction ls generalizing s with
  | nil => rfl
  | cons p ls ih => rw [List.foldl_cons, ih]; rfl

/-- The entries of symbols that no recorded leaf has stay. -/
theorem foldl_recordLeaf_absent {ls : List LeafPath} {x : Symbol} (h : x ∉ ls.map LeafPath.sym) (s : State) :
    cbLenOf (ls.foldl recordLeaf s) x = cbLenOf s x ∧ cbCwOf (ls.foldl recordLeaf s) x = cbCwOf s x := by
  induction ls generalizing s with
  | nil => exact ⟨rfl, rfl⟩
  | cons p ls ih =>
    rw [List.map_cons, List.mem_cons, not_or] at h
    obtain ⟨hne, hx⟩ := h
    rw [List.foldl_cons, (ih hx _).1, (ih hx _).2, cbLenOf_recordLeaf, cbCwOf_recordLeaf, if_neg (Ne.symm hne),
      if_neg (Ne.symm hne)]
    exact ⟨rfl, rfl⟩

/-- Each leaf's entry is its path, where no two recorded leaves have one symbol. -/
theorem foldl_recordLeaf_present {ls : List LeafPath} (hnd : (ls.map LeafPath.sym).Nodup) (s : State) :
    ∀ p ∈ ls, cbLenOf (ls.foldl recordLeaf s) p.sym = BitVec.ofNat 8 p.path.length ∧
      cbCwOf (ls.foldl recordLeaf s) p.sym = BitVec.ofNat 255 (codeVal p.path) := by
  induction ls generalizing s with
  | nil => simp
  | cons q ls ih =>
    obtain ⟨hq, hnd⟩ := List.nodup_cons.1 hnd
    intro p hp
    rcases List.mem_cons.1 hp with rfl | hp
    · rw [List.foldl_cons, (foldl_recordLeaf_absent hq _).1, (foldl_recordLeaf_absent hq _).2, cbLenOf_recordLeaf,
        cbCwOf_recordLeaf, if_pos rfl, if_pos rfl]
      exact ⟨rfl, rfl⟩
    · exact ih hnd _ p hp

/-- COMP_BITS gains the sum of weight times length (R27). -/
theorem foldl_recordLeaf_compBits (ls : List LeafPath) (s : State) :
    (ls.foldl recordLeaf s).compBits =
      s.compBits + BitVec.ofNat 64 (ls.map (fun p => p.weight.toNat * p.path.length)).sum := by
  induction ls generalizing s with
  | nil => simp
  | cons p ls ih =>
    have hw : p.weight.setWidth 64 = BitVec.ofNat 64 p.weight.toNat := by
      apply BitVec.eq_of_toNat_eq
      simp
    rw [List.foldl_cons, ih, recordLeaf_compBits, hw, List.map_cons, List.sum_cons, BitVec.ofNat_add,
      BitVec.ofNat_mul, BitVec.add_assoc]

@[simp] theorem cbLenOf_emptyBook (s : State) (x : Symbol) : cbLenOf (emptyBook s) x = 0 := by simp [cbLenOf]

/-- No path of the traversal from ROOT is longer than 255 edges (R197). -/
theorem treeLeaves_path_le {s : State} {ls : List LeafPath} (h : treeLeaves s = some ls) :
    ∀ p ∈ ls, p.path.length ≤ 255 := by
  unfold treeLeaves at h
  split at h
  · cases h
    simp
  · exact fun p hp => Nat.le_of_lt_succ (leafPaths_path_lt h p hp)

/-- The state INDEX leaves, for the leaves the traversal found. -/
theorem execBuild_rooted {s : State} {ls : List LeafPath} (hp : s.phase = .rooted) (hl : treeLeaves s = some ls) :
    exec .build s = .next (finish { restWalk (ls.foldl recordLeaf (emptyBook s)) with phase := .indexed }) := by
  simp [exec, execBuild, hp, indexStep, hl, complete]

/-- Settles O31: what the recorded leaves leave in the book, for paths of at most 255 edges. -/
theorem buildDerivesTheCodeBook : Obligations.BuildDerivesTheCodeBook := by
  intro s ls hp hl hnd
  have hframe := foldl_recordLeaf_frame ls (emptyBook s)
  refine ⟨_, execBuild_rooted hp hl, fun p hpl => ?_, fun x hx => ?_, ?_, ?_⟩
  · obtain ⟨hlen, hcw⟩ := foldl_recordLeaf_present hnd (emptyBook s) p hpl
    have hle : p.path.length ≤ 255 := treeLeaves_path_le hl p hpl
    have hlenNat : (BitVec.ofNat 8 p.path.length).toNat = p.path.length := by
      rw [BitVec.toNat_ofNat, Nat.mod_eq_of_lt (by omega)]
    refine ⟨(congrArg BitVec.toNat hlen).trans hlenNat, hcw, ?_⟩
    calc codeBits _ _ = codeBits p.path.length (BitVec.ofNat 255 (codeVal p.path)) :=
          congrArg₂ codeBits ((congrArg BitVec.toNat hlen).trans hlenNat) hcw
      _ = p.path := codeBits_codeVal p.path hle
  · obtain ⟨hlen, hcw⟩ := foldl_recordLeaf_absent hx (emptyBook s)
    exact ⟨hlen.trans (cbLenOf_emptyBook s x), hcw⟩
  · simp [foldl_recordLeaf_compBits]
  · rw [hframe]
    rfl

/-! ### SIZES and NODE_READ (R248, R261) -/

/-- The two words of a 64-bit value hold it (R50, R51). -/
theorem words_of_dword (v : BitVec 64) :
    (v.extractLsb' 32 32).toNat * 2 ^ 32 + (v.extractLsb' 0 32).toNat = v.toNat := by
  have := v.isLt
  simp only [BitVec.extractLsb'_toNat, Nat.shiftRight_eq_div_pow]
  omega

/-- The middle field of a concatenation of three. -/
theorem extractLsb'_append_middle {n m k : Nat} (x : BitVec n) (y : BitVec m) (z : BitVec k) :
    (x ++ y ++ z).extractLsb' k m = y := by
  rw [BitVec.extractLsb'_append_eq_of_le (Nat.le_refl k), Nat.sub_self, BitVec.extractLsb'_append_eq_right]

/-- The fields of RES_TREE (R52). -/
theorem treeWord_fields (s : State) :
    (treeWord s).extractLsb' 0 9 = refField s.root ∧ (treeWord s).extractLsb' 9 7 = 0 ∧
      ((treeWord s).extractLsb' 16 10).toNat = s.nodeCnt.val ∧ (treeWord s).extractLsb' 26 6 = 0 := by
  refine ⟨BitVec.extractLsb'_append_eq_right, extractLsb'_append_middle _ _ _, ?_, ?_⟩ <;> unfold treeWord
  · have := s.nodeCnt.isLt
    rw [BitVec.extractLsb'_append_eq_of_le (by decide), extractLsb'_append_middle, BitVec.toNat_ofNat,
      Nat.mod_eq_of_lt (by omega)]
  · rw [BitVec.extractLsb'_append_eq_of_le (by decide), BitVec.extractLsb'_append_eq_of_le (by decide),
      BitVec.extractLsb'_append_eq_left]

/-- The fields RES_NODE0 shows of a leaf (R47). -/
theorem node0Word_leaf_fields (x : Symbol) (w : Word) :
    (node0Word (.leaf x w)).extractLsb' 17 9 = 0x1FF ∧ (node0Word (.leaf x w)).extractLsb' 8 9 = 0x1FF ∧
      (node0Word (.leaf x w)).extractLsb' 0 8 = x := by
  refine ⟨?_, extractLsb'_append_middle _ _ _, BitVec.extractLsb'_append_eq_right⟩
  unfold node0Word
  rw [BitVec.extractLsb'_append_eq_of_le (by decide), extractLsb'_append_middle]

/-- The fields RES_NODE0 shows of an internal node (R47). -/
theorem node0Word_internal_fields (w : Word) (l r : NodeRef) :
    (node0Word (.internal w l r)).extractLsb' 17 9 = refField l ∧
      (node0Word (.internal w l r)).extractLsb' 8 9 = refField r ∧
      (node0Word (.internal w l r)).extractLsb' 0 8 = 0 := by
  refine ⟨?_, extractLsb'_append_middle _ _ _, BitVec.extractLsb'_append_eq_right⟩
  unfold node0Word
  rw [BitVec.extractLsb'_append_eq_of_le (by decide), extractLsb'_append_middle]

/-- RES_NODE0 shows a record's kind above five zeros (R47). -/
theorem node0Word_kind (n : NodeRec) :
    (node0Word n).getLsbD 31 = !nodeIsLeaf n ∧ (node0Word n).extractLsb' 26 5 = 0 := by
  cases n <;> unfold node0Word <;>
    rw [BitVec.getLsbD_append, BitVec.getLsbD_append, BitVec.getLsbD_append,
      BitVec.extractLsb'_append_eq_of_le (by decide), BitVec.extractLsb'_append_eq_of_le (by decide),
      BitVec.extractLsb'_append_eq_of_le (by decide)] <;>
    exact ⟨rfl, rfl⟩

/-- The state SIZES leaves in INDEXED: only RES registers and the command's end. -/
theorem execSizes_indexed {s : State} (hp : s.phase = .indexed) :
    exec .sizes s = .next (finish { s with res := { s.res with
      orig := s.origCount
      cbitsLo := s.compBits.extractLsb' 0 32
      cbitsHi := s.compBits.extractLsb' 32 32
      csizeLo := (s.compBits >>> 3).extractLsb' 0 32
      csizeHi := (s.compBits >>> 3).extractLsb' 32 32
      tree := treeWord s } }) := by
  simp [exec, execSizes, codecGate, hp, complete]

/-- NULL is 0x1FF as a field and an index is its number (R24). -/
theorem refField_null_and_index : refField none = 0x1FF ∧ ∀ i : NodeIdx, (refField (some i)).toNat = i.val :=
  ⟨refField_none, refField_some_toNat⟩

/-- Settles O39, field by field. -/
theorem sizesReports : Obligations.SizesReports := by
  refine ⟨refField_null_and_index, fun s hp => ?_⟩
  have hsize : (s.compBits >>> 3).toNat = s.compBits.toNat / 8 := by
    rw [BitVec.toNat_ushiftRight, Nat.shiftRight_eq_div_pow]
  obtain ⟨hroot, hgap, hcnt, hzero⟩ := treeWord_fields s
  exact ⟨_, execSizes_indexed hp, rfl, words_of_dword s.compBits, (words_of_dword _).trans hsize, hroot, hgap, hcnt,
    hzero, rfl⟩

theorem execNodeRead_badIndex {i : BitVec 9} {s : State} (h : s.nodeCnt.val ≤ i.toNat) :
    exec (.nodeRead i) s = .next (raise .badIndex s) := by
  simp [exec, execNodeRead, fail, Nat.not_lt.2 h]

theorem execNodeRead_allocated {i : BitVec 9} {s : State} {k : NodeIdx} (hk : k.val = i.toNat)
    (h : k.val < s.nodeCnt.val) : exec (.nodeRead i) s = .next (finish (showNode s.node[k] s)) := by
  simp [exec, execNodeRead, complete, ← hk, h]

/-- Settles O40, by whether the index is allocated. -/
theorem nodeReadShowsTheRecord : Obligations.NodeReadShowsTheRecord := by
  refine ⟨refField_null_and_index, fun i s => ⟨execNodeRead_badIndex, fun k hk hlt => ?_⟩⟩
  obtain ⟨hkind, hzero⟩ := node0Word_kind s.node[k]
  refine ⟨_, execNodeRead_allocated hk hlt, rfl, hkind, hzero, fun x w hleaf => ?_, fun w l r hint => ?_, rfl⟩
  · rw [hleaf]
    exact node0Word_leaf_fields x w
  · rw [hint]
    exact node0Word_internal_fields w l r

/-! ### The compressed size (R199, R249) -/

/-- The tally's sum, symbol by symbol. -/
theorem freqTotal_eq_sum (s : State) : freqTotal s = (allSymbols.map (fun x => (freqOf s x).toNat)).sum := by
  simp [freqTotal, freqEntries_eq, Function.comp_def]

/-- A sum of products with the counts runs over the present symbols alone: the others count 0. -/
theorem sum_present_eq_sum_allSymbols (s : State) (f : Symbol → Nat) :
    ((present s).map (fun x => (freqOf s x).toNat * f x)).sum =
      (allSymbols.map (fun x => (freqOf s x).toNat * f x)).sum := by
  rw [present_eq_filter]
  induction allSymbols with
  | nil => rfl
  | cons x l ih =>
    by_cases hx : freqOf s x = 0
    · rw [List.filter_cons_of_neg (by simp [hx]), ih]
      simp [hx]
    · rw [List.filter_cons_of_pos (by simpa using hx), List.map_cons, List.map_cons, List.sum_cons, List.sum_cons, ih]

/-- In a safe INDEXED state CB_LEN of a leaf's symbol is its path's length. -/
theorem cbLenOf_of_bookAgrees {s : State} (hb : BookAgrees s) (hp : s.phase = .indexed) :
    ∀ p ∈ rootLeaves s, (cbLenOf s p.sym).toNat = p.path.length := by
  obtain ⟨hbook, -, -⟩ := hb hp
  intro p hpl
  rw [← (hbook p hpl).1]
  exact (codeBits_length _ _).symm

/-- COMP_BITS is the sum over all symbols of count times codeword length: the leaves are the present symbols, each with
its count. -/
theorem compBits_eq_sum {s : State} (hb : BookAgrees s) (hf : RootForest s) (hp : s.phase = .indexed) :
    s.compBits.toNat = (allSymbols.map (fun x => (freqOf s x).toNat * (cbLenOf s x).toNat)).sum := by
  have hlen := cbLenOf_of_bookAgrees hb hp
  obtain ⟨-, -, hbits⟩ := hb hp
  obtain ⟨-, hperm, hleaf⟩ := hf
  calc s.compBits.toNat
      = ((rootLeaves s).map (fun p => p.weight.toNat * p.path.length)).sum := hbits
    _ = ((rootLeaves s).map (fun p => (freqOf s p.sym).toNat * (cbLenOf s p.sym).toNat)).sum := by
        congr 1
        exact List.map_congr_left fun p hpl => by rw [(hleaf p hpl).1, hlen p hpl]
    _ = (((rootLeaves s).map LeafPath.sym).map (fun x => (freqOf s x).toNat * (cbLenOf s x).toNat)).sum := by
        rw [List.map_map]
        rfl
    _ = ((present s).map (fun x => (freqOf s x).toNat * (cbLenOf s x).toNat)).sum := (hperm.map _).sum_eq
    _ = _ := sum_present_eq_sum_allSymbols s _

/-- Lengths of at most 255 bits weighted by the counts stay below 2^40 (R199). -/
theorem sum_freq_mul_length_lt {s : State} (ht : TallyConserved s) :
    (allSymbols.map (fun x => (freqOf s x).toNat * (cbLenOf s x).toNat)).sum < 2 ^ 40 := by
  have hle : (allSymbols.map (fun x => (freqOf s x).toNat * (cbLenOf s x).toNat)).sum ≤
      (allSymbols.map (fun x => (freqOf s x).toNat * 255)).sum :=
    List.sum_le_sum fun x _ => Nat.mul_le_mul_left _ (Nat.le_of_lt_succ (cbLenOf s x).isLt)
  rw [List.sum_map_mul_right, ← freqTotal_eq_sum, ht] at hle
  have := s.origCount.isLt
  omega

/-- Settles O59: the leaves of the tree carry the whole sum, which SIZES divides by 8. -/
theorem compressedSizeLaw : Obligations.CompressedSizeLaw := by
  intro s hsafe hp
  obtain ⟨htally, -, -, -, -, ⟨-, hforest⟩, -, hbook⟩ := hsafe
  have hsum := compBits_eq_sum hbook (hforest (by rw [hp]; rfl)) hp
  obtain ⟨t, ht, -, -, hsize, -⟩ := sizesReports.2 s hp
  exact ⟨hsum, hsum ▸ sum_freq_mul_length_lt htally, t, ht, hsum ▸ hsize⟩

/-! ### How a command ends (R17, R140) -/

/-- A body the gate admits clears BUSY where the command does. -/
theorem busy_of_codecGate {s t u : State} (h : codecGate s (complete u) = .next t) : t.busy = false := by
  rcases codecGate_next h with ⟨-, rfl⟩ | ⟨-, h⟩
  · rfl
  · cases h
    rfl

/-- A command other than BUILD clears BUSY in its one step (R140, R275). -/
theorem busy_of_exec {i : Instr} (hi : i ≠ .build) {s t : State} (h : exec i s = .next t) : t.busy = false := by
  cases i with
  | build => exact absurd rfl hi
  | nop | clear => cases h; rfl
  | tallyByte x =>
    simp only [exec, execTallyByte] at h
    split at h
    · cases h; rfl
    · split at h <;> cases h <;> rfl
  | tallyAbort =>
    simp only [exec, execTallyAbort] at h
    split at h <;> cases h <;> rfl
  | nodeRead k =>
    simp only [exec, execNodeRead] at h
    split at h <;> cases h <;> rfl
  | codewordOf x | encodeSym x | symbolOf | decodeBit b | decodeFlush | sizes => exact busy_of_codecGate h

/-! ### What a step of BUILD leaves unchanged (R171) -/

theorem seedEntry_frame (s : State) (e : Symbol × Word) :
    ∃ node cnt inq, seedEntry s e = { s with node := node, nodeCnt := cnt, inq := inq } := by
  unfold seedEntry
  split
  · exact ⟨_, _, _, rfl⟩
  · split
    · exact ⟨_, _, _, rfl⟩
    · rename_i halloc
      obtain ⟨-, -, -, hu⟩ := alloc_eq_some halloc
      rw [hu]
      exact ⟨_, _, _, rfl⟩

theorem foldl_seedEntry_frame (l : List (Symbol × Word)) (s : State) :
    ∃ node cnt inq, l.foldl seedEntry s = { s with node := node, nodeCnt := cnt, inq := inq } := by
  induction l generalizing s with
  | nil => exact ⟨_, _, _, rfl⟩
  | cons e l ih =>
    obtain ⟨n, c, q, he⟩ := seedEntry_frame s e
    rw [List.foldl_cons, he]
    exact ih _

/-- SEED changes the node memory, the queue and PHASE alone (R175). -/
theorem seedStep_frame (s : State) :
    ∃ node cnt inq, seedStep s = { s with node := node, nodeCnt := cnt, inq := inq, phase := .seeded } := by
  obtain ⟨n, c, q, h⟩ := foldl_seedEntry_frame (freqEntries s) { s with nodeCnt := 0 }
  exact ⟨n, c, q, by rw [seedStep, h]⟩

/-- MERGE changes the same, and leaves PHASE at MERGING (R177); ROOT may change ROOT as well, and leaves PHASE at
ROOTED (R181). -/
theorem mergeOrRoot_frame {s t : State} (h : mergeOrRoot s = .next t) :
    ∃ node cnt inq, t = { s with node := node, nodeCnt := cnt, inq := inq, phase := .merging } ∨
      ∃ root, t = { s with node := node, nodeCnt := cnt, inq := inq, root := root, phase := .rooted } := by
  rcases mergeOrRoot_cases h with ⟨-, rfl⟩ | ⟨r, u, hu, -, hroot⟩ | ⟨a, b, u, v, hu, hv, hmerge⟩
  · exact ⟨_, _, _, .inr ⟨_, rfl⟩⟩
  · obtain ⟨-, -, rfl⟩ := popMin_spec hu
    rcases rootNode_next hroot with ⟨-, p, w, halloc, rfl⟩ | ⟨-, rfl⟩
    · obtain ⟨-, -, -, hw⟩ := alloc_eq_some halloc
      rw [hw]
      exact ⟨_, _, _, .inr ⟨_, rfl⟩⟩
    · exact ⟨_, _, _, .inr ⟨_, rfl⟩⟩
  · obtain ⟨-, -, rfl⟩ := popMin_spec hu
    obtain ⟨-, -, rfl⟩ := popMin_spec hv
    obtain ⟨p, w, halloc, rfl⟩ := mergeNodes_next hmerge
    obtain ⟨-, -, -, hw⟩ := alloc_eq_some halloc
    rw [hw]
    exact ⟨_, _, _, .inl rfl⟩

/-- A step of BUILD either stays in BUILD, changing the node memory, the queue, PHASE and, in ROOT's step alone, ROOT;
or it ends BUILD in INDEXED with BUSY = 0. -/
theorem execBuild_frame {s t : State} (h : exec .build s = .next t) :
    (s.phase ≠ .indexed ∧ midBuild t.phase = true ∧ (t.phase = .rooted ∨ hasRoot s.phase = false ∧ t.root = s.root) ∧
      t = { s with node := t.node, nodeCnt := t.nodeCnt, inq := t.inq, root := t.root, phase := t.phase }) ∨
    (t.phase = .indexed ∧ t.busy = false) := by
  rcases execBuild_cases h with ⟨hp, rfl⟩ | ⟨hq, hm⟩ | ⟨-, hi⟩ | ⟨hp, rfl⟩
  · obtain ⟨n, c, q, hs⟩ := seedStep_frame s
    rw [hs, hp]
    exact .inl ⟨by simp, rfl, .inr ⟨rfl, rfl⟩, rfl⟩
  · have hphase : s.phase ≠ .indexed ∧ hasRoot s.phase = false := by
      cases hp : s.phase <;> simp_all [queueing, hasRoot]
    obtain ⟨n, c, q, rfl | ⟨r, rfl⟩⟩ := mergeOrRoot_frame hm
    · exact .inl ⟨hphase.1, rfl, .inr ⟨hphase.2, rfl⟩, rfl⟩
    · exact .inl ⟨hphase.1, rfl, .inl rfl, rfl⟩
  · obtain ⟨ls, -, rfl⟩ := indexStep_next hi
    exact .inr ⟨rfl, rfl⟩
  · exact .inr ⟨hp, rfl⟩

/-! ### What a step of BUILD shows (R95) -/

/-- Clearing the bits of 0xE and putting a 3-bit field there replaces the field at [3:1] (R36). -/
theorem append_replace_field (hi : BitVec 28) (p q : BitVec 3) (lo : BitVec 1) :
    (hi ++ q ++ lo : Word) = ((hi ++ p ++ lo : Word) &&& ~~~(0xE : Word)) ||| (q.setWidth 32 <<< 1) := by
  apply BitVec.eq_of_getLsbD_eq
  intro i h
  rw [BitVec.getLsbD_or, BitVec.getLsbD_and, BitVec.getLsbD_append, BitVec.getLsbD_append, BitVec.getLsbD_append,
    BitVec.getLsbD_append]
  by_cases h0 : i < 1
  · obtain rfl : i = 0 := by omega
    simp
  · by_cases h3 : i - 1 < 3
    · have : i = 1 ∨ i = 2 ∨ i = 3 := by omega
      rcases this with rfl | rfl | rfl <;> simp
    · have hmask : (14#32)[i] = false := BitVec.getLsbD_of_ge 14#4 i (by omega)
      have hfield : q.getLsbD (i - 1) = false := BitVec.getLsbD_of_ge _ _ (by omega)
      simp [h0, h3, h, hmask, hfield, -BitVec.reduceNot]

/-- A walk on NULL that is not dead shows nothing pending, where ROOT is NULL or PHASE is ROOTED (R41, log 19). -/
theorem decPend_eq_false {s : State} (hdead : s.walkDead = false) (hnode : s.walkNode = none)
    (hroot : s.phase = .rooted ∨ s.root = none) : decPend s = false := by
  rcases hroot with h | h <;> simp [decPend, hdead, hnode, h]

/-- Before INDEXED a state that holds what its phase leaves empty shows nothing pending. -/
theorem decPend_of_quiet {s : State} (hquiet : QuietOutsideBuild s) (hp : s.phase ≠ .indexed) :
    decPend s = false := by
  obtain ⟨-, -, hroot, hwalk⟩ := hquiet
  obtain ⟨-, -, hnode, hdead⟩ := hwalk hp
  refine decPend_eq_false hdead hnode ?_
  cases hph : s.phase with
  | rooted => exact .inl rfl
  | indexed => exact absurd hph hp
  | empty | seeded | merging => exact .inr (hroot (by rw [hph]; rfl))

/-- STATUS of two states that differ in nothing it shows but PHASE. -/
theorem statusWord_of_phase {s t : State} (hbusy : t.busy = s.busy) (herr : t.err = s.err)
    (hseen : t.errSeen = s.errSeen) (hdead : t.walkDead = s.walkDead) (hpend : decPend t = decPend s) :
    statusWord t = (statusWord s &&& ~~~(0xE : Word)) ||| (t.phase.code.setWidth 32 <<< 1) := by
  unfold statusWord decDead
  rw [hbusy, herr, hseen, hdead, hpend]
  exact append_replace_field _ _ _ _

/-- Settles O7, from the two ways a step of BUILD can end. -/
theorem commandsCompleteInOneStep : Obligations.CommandsCompleteInOneStep := by
  refine ⟨fun s => busy_of_turn_core, fun i s t hi h => busy_of_exec hi h, fun s t h => ?_,
    fun s t hquiet h hmid r => ?_⟩
  · rcases execBuild_frame h with ⟨-, hmid, -, ht⟩ | ⟨hp, hbusy⟩
    · rw [if_pos hmid, ht]
    · rw [hp]
      exact hbusy
  · rcases execBuild_frame h with ⟨hp, -, hroot, ht⟩ | ⟨hp, -⟩
    · have hpend : decPend t = decPend s := by
        have hs : decPend s = false := decPend_of_quiet hquiet hp
        obtain ⟨-, -, hnone, hwalk⟩ := hquiet
        obtain ⟨-, -, hnode, hdead⟩ := hwalk hp
        rw [hs]
        refine decPend_eq_false ((congrArg State.walkDead ht).trans hdead) ((congrArg State.walkNode ht).trans hnode) ?_
        exact hroot.imp_right fun ⟨hrootless, hkept⟩ => hkept.trans (hnone hrootless)
      split
      · rename_i hr
        subst hr
        exact statusWord_of_phase (by rw [ht]) (by rw [ht]) (by rw [ht]) (by rw [ht]) hpend
      · rename_i hr
        rw [ht]
        cases r with
        | status => exact absurd rfl hr
        | _ => rfl
    · rw [hp] at hmid
      cases hmid

end Sys2Proof.Machine
end

section
/-! PROOFS of the statements about the state (spec/10_state.md): what a command and a step can do, said once, the
invariants that every step keeps, the host's window, and the code the tree gives. -/

namespace Sys2Proof.Machine

/-! ### What a command can do (R120, R275) -/

/-- What a command that goes on can do: refuse, show a result, or the one effect that is its own. -/
inductive CommandEffect (s : State) : Instr → State → Prop
  /-- It ends with an error and changes nothing else (R275). -/
  | refused {i : Instr} {c : ErrCode} (hi : i ≠ .clear) (hc : c ≠ .ok) : CommandEffect s i (raise c s)
  /-- It changes RES registers at most (R53). -/
  | shown {i : Instr} (r : Results) (hi : i ≠ .clear) : CommandEffect s i (finish { s with res := r })
  /-- ENCODE_SYM emits the codeword (R221). -/
  | encoded (x : Symbol) (r : Results) (bits : List Bool) :
      CommandEffect s (.encodeSym x) (finish { s with res := r, encOut := s.encOut ++ bits })
  /-- CLEAR (R142). -/
  | cleared : CommandEffect s .clear (finish (clearState s))
  /-- TALLY_BYTE counts a byte (R151). -/
  | counted (x : Symbol) (hp : s.phase = .empty) (hc : s.origCount ≠ 0xFFFFFFFF) :
      CommandEffect s (.tallyByte x) (finish (countByte x s))
  /-- TALLY_ABORT discards the tally (R157). -/
  | discarded (hp : s.phase = .empty) : CommandEffect s .tallyAbort (raise .ioError (discardTally s))
  /-- BUILD's SEED (R175). -/
  | seeded (hp : s.phase = .empty) : CommandEffect s .build (seedStep s)
  /-- BUILD's MERGE or ROOT (R177, R181). -/
  | merged {t : State} (hp : queueing s.phase = true) (h : mergeOrRoot s = .next t) : CommandEffect s .build t
  /-- BUILD's INDEX (R183). -/
  | booked {ls : List LeafPath} (hp : s.phase = .rooted) (hl : treeLeaves s = some ls) :
      CommandEffect s .build (finish { restWalk (ls.foldl recordLeaf (emptyBook s)) with phase := .indexed })
  /-- DECODE_BIT moves the walk (R238). -/
  | decoded (b : Bool) (hp : s.phase = .indexed) : CommandEffect s (.decodeBit b) (finish (decodeBit b s))
  /-- DECODE_FLUSH puts the walk at rest (R244). -/
  | flushed (hp : s.phase = .indexed) : CommandEffect s .decodeFlush (finish (restWalk s))

/-- A codec command is refused outside INDEXED; in it, it has the effect of its body (R210). -/
theorem commandEffect_of_codecGate {i : Instr} (hi : i ≠ .clear) {s t u : State}
    (h : codecGate s (complete u) = .next t) (hu : s.phase = .indexed → CommandEffect s i (finish u)) :
    CommandEffect s i t := by
  rcases codecGate_next h with ⟨-, rfl⟩ | ⟨hp, h⟩
  · exact .refused hi (by decide)
  · cases h
    exact hu hp

/-- Every command that goes on has one of the effects. -/
theorem commandEffect_of_exec {i : Instr} {s t : State} (h : exec i s = .next t) : CommandEffect s i t := by
  cases i with
  | nop => cases h; exact .shown s.res (by decide)
  | clear => cases h; exact .cleared
  | tallyByte x =>
    simp only [exec, execTallyByte] at h
    split at h
    · cases h; exact .refused (by simp) (by decide)
    · rename_i hp
      split at h
      · cases h; exact .refused (by simp) (by decide)
      · rename_i hc
        cases h
        exact .counted x (not_not.1 hp) hc
  | tallyAbort =>
    simp only [exec, execTallyAbort] at h
    split at h
    · cases h; exact .refused (by simp) (by decide)
    · rename_i hp
      cases h
      exact .discarded (not_not.1 hp)
  | build =>
    rcases execBuild_cases h with ⟨hp, rfl⟩ | ⟨hp, hm⟩ | ⟨hp, hi⟩ | ⟨-, rfl⟩
    · exact .seeded hp
    · exact .merged hp hm
    · obtain ⟨ls, hl, rfl⟩ := indexStep_next hi
      exact .booked hp hl
    · exact .refused (by decide) (by decide)
  | codewordOf x => exact commandEffect_of_codecGate (by simp) h fun _ => .shown _ (by simp)
  | encodeSym x => exact commandEffect_of_codecGate (by simp) h fun _ => .encoded x _ _
  | symbolOf => exact commandEffect_of_codecGate (by simp) h fun _ => .shown _ (by simp)
  | decodeBit b => exact commandEffect_of_codecGate (by simp) h (.decoded b)
  | decodeFlush => exact commandEffect_of_codecGate (by simp) h .flushed
  | sizes => exact commandEffect_of_codecGate (by simp) h fun _ => .shown _ (by simp)
  | nodeRead k =>
    simp only [exec, execNodeRead] at h
    split at h
    · cases h; exact .shown _ (by simp)
    · cases h; exact .refused (by simp) (by decide)

/-- DECODE_BIT changes RES_SYM, the walk and DEC_OUT alone (R238). -/
theorem decodeBit_frame (b : Bool) (s : State) :
    ∃ sym emitted walk dead, decodeBit b s =
      { s with
        res := { s.res with sym := sym }, decOut := s.decOut ++ emitted, walkNode := walk, walkDead := dead } := by
  unfold decodeBit
  cases walkMove b s with
  | found x => exact ⟨_, [x], _, _, rfl⟩
  | stayDead | die | moveTo i => exact ⟨_, [], _, _, by rw [List.append_nil]; rfl⟩

/-- BUILD's MERGE or ROOT leaves PHASE at MERGING or ROOTED and changes the node memory, the queue and ROOT besides. -/
theorem mergeOrRoot_phase {s t : State} (h : mergeOrRoot s = .next t) :
    (t.phase = .merging ∨ t.phase = .rooted) ∧
      t = { s with node := t.node, nodeCnt := t.nodeCnt, inq := t.inq, root := t.root, phase := t.phase } := by
  obtain ⟨n, c, q, rfl | ⟨r, rfl⟩⟩ := mergeOrRoot_frame h
  · exact ⟨.inl rfl, rfl⟩
  · exact ⟨.inr rfl, rfl⟩

/-- BUILD leaves the tally, the ports, the input registers and what is the host's (R189, R190). -/
theorem build_frame {s t : State} (h : CommandEffect s .build t) :
    t = { s with
      busy := t.busy, phase := t.phase, err := t.err, errSeen := t.errSeen, res := t.res, node := t.node,
      nodeCnt := t.nodeCnt, inq := t.inq, root := t.root, cbLen := t.cbLen, cbCw := t.cbCw, compBits := t.compBits,
      walkNode := t.walkNode, walkDead := t.walkDead } := by
  cases h with
  | refused | shown => rfl
  | seeded =>
    obtain ⟨_, _, _, e⟩ := seedStep_frame s
    rw [e]
  | merged _ hm => rw [(mergeOrRoot_phase hm).2]
  | booked => rw [foldl_recordLeaf_frame]; rfl

/-! ### What a step can do (R15 to R18) -/

/-- The state that BUILD, the code and the walk consist of, every other field at its reset value. -/
def bare (s : State) : State :=
  { State.reset with
    phase := s.phase, freq := s.freq, origCount := s.origCount, node := s.node, nodeCnt := s.nodeCnt, inq := s.inq,
    root := s.root, cbLen := s.cbLen, cbCw := s.cbCw, compBits := s.compBits, walkNode := s.walkNode,
    walkDead := s.walkDead }

theorem phase_of_bare {s t : State} (h : bare t = bare s) : t.phase = s.phase := by
  show (bare t).phase = (bare s).phase
  rw [h]

theorem tally_of_bare {s t : State} (h : bare t = bare s) : t.freq = s.freq ∧ t.origCount = s.origCount := by
  show (bare t).freq = (bare s).freq ∧ (bare t).origCount = (bare s).origCount
  rw [h]
  exact ⟨rfl, rfl⟩

/-- What a step that goes on can do. -/
inductive StepEffect (s : State) : State → Prop
  /-- The core performs the latched command. -/
  | command {i : Instr} {t : State} (l : List Agent) (hb : s.busy = true) (hd : decode s.cmdLatch = .ok i)
      (he : exec i { s with schedule := l } = .next t) : StepEffect s t
  /-- The latched word is illegal (R117). -/
  | illegal {e : IllegalWord} (l : List Agent) (hd : decode s.cmdLatch = .error e) :
      StepEffect s (raise .illegalCmd { s with schedule := l })
  /-- Nobody moves, or the host reads, polls or writes a register other than CMD. -/
  | access {t : State} (hbare : bare t = bare s) (hbusy : t.busy = s.busy) (hlatch : t.cmdLatch = s.cmdLatch)
      (henc : t.encOut = s.encOut) (hdec : t.decOut = s.decOut) : StepEffect s t
  /-- The host writes CMD, which it can with BUSY = 0 alone (R87, R88). -/
  | latched {t : State} (hidle : s.busy = false) (hbare : bare t = bare s) (hbusy : t.busy = true)
      (henc : t.encOut = s.encOut) (hdec : t.decOut = s.decOut) : StepEffect s t
  /-- The host asserts reset (R300). -/
  | reset (landed : Nat) (l : List Agent) (rest : List HostLine) :
      StepEffect s (hostReset landed { s with schedule := l, host := rest })

theorem hostReady_of_turn_host {s : State} (h : turn s = some .host) : hostReady s = true := by
  by_contra hr
  rw [turn_of_not_hostReady (Bool.eq_false_iff.2 hr)] at h
  split at h <;> cases h

/-- A host write of CMD latches the word; one of another register changes the input registers at most (R32, R35,
R43). -/
theorem hostWrite_cases (r : HostReg) (v : Word) (s : State) :
    (r = .cmd ∧ hostWrite r v s = { s with cmdLatch := v, busy := true }) ∨
      (r ≠ .cmd ∧ ∃ n w, hostWrite r v s = { s with cwinLen := n, cwin := w }) := by
  cases r with
  | cmd => exact .inl ⟨rfl, rfl⟩
  | _ => exact .inr ⟨by simp, _, _, rfl⟩

/-- A host step that goes on has one of the effects. -/
theorem stepEffect_of_hostStep {s t : State} {l : List Agent} (ht : turn s = some .host)
    (h : hostStep { s with schedule := l } = .next t) : StepEffect s t := by
  rcases hostStep_cases h with ⟨-, rfl⟩ | ⟨addr, size, rest, r, -, -, rfl⟩ | ⟨addr, size, v, rest, r, hw, -, rfl⟩ |
    ⟨rest, -, rfl⟩ | ⟨landed, rest, -, rfl⟩
  · exact .access rfl rfl rfl rfl rfl
  · exact .access rfl rfl rfl rfl rfl
  · have hready := hostReady_of_turn_host ht
    rw [hostReady_wr (s := s) hw] at hready
    rcases hostWrite_cases r v { s with schedule := l, host := rest } with ⟨-, he⟩ | ⟨-, n, w, he⟩
    · exact .latched (by simpa using hready) (by rw [he]; rfl) (by rw [he]) (by rw [he]) (by rw [he])
    · exact .access (by rw [he]; rfl) (by rw [he]) (by rw [he]) (by rw [he]) (by rw [he])
  · split <;> exact .access rfl rfl rfl rfl rfl
  · exact .reset landed l rest

/-- Every step that goes on has one of the effects. -/
theorem stepEffect_of_step {s t : State} (h : step s = .next t) : StepEffect s t := by
  obtain ⟨l, hl⟩ := afterTurn_eq s
  rcases step_cases h with ⟨-, rfl⟩ | ⟨ht, hc⟩ | ⟨ht, hh⟩
  · exact .access rfl rfl rfl rfl rfl
  · rw [hl] at hc
    rcases coreStep_cases hc with ⟨i, hd, he⟩ | ⟨e, hd, rfl⟩
    · exact .command l (busy_of_turn_core ht) hd he
    · exact .illegal l hd
  · rw [hl] at hh
    exact stepEffect_of_hostStep ht hh

/-- A promise about the build, code and walk state that reset establishes and every command keeps is kept by every
step. -/
theorem step_keeps {P : State → Prop} (hbare : ∀ s, P (bare s) ↔ P s) (hreset : ∀ n s, P (hostReset n s))
    (hcommand : ∀ i s t, CommandEffect s i t → P s → P t) {s t : State} (hs : P s) (h : step s = .next t) : P t := by
  have same : ∀ {u v : State}, bare v = bare u → P u → P v := fun e hu => (hbare _).1 (e ▸ (hbare _).2 hu)
  cases stepEffect_of_step h with
  | command l _ _ he => exact hcommand _ _ _ (commandEffect_of_exec he) (same (u := s) rfl hs)
  | illegal l _ => exact same (u := s) rfl hs
  | access hb _ _ _ _ => exact same hb hs
  | latched _ hb _ _ _ => exact same hb hs
  | reset n l rest => exact hreset _ _

/-! ### The sequencer (R38, R65) -/

/-- Only BUILD's own word decodes to it (R116, R118). -/
theorem cmdLatch_of_decode_build {w : Word} (h : decode w = .ok .build) : w = encode .build := by
  unfold decode at h
  split at h
  · rename_i r hr
    have hsel : r.selects w = true := List.find?_some (p := fun r : OpRow => r.selects w) hr
    have hname : r.mnemonic = .build := by
      cases hm : r.mnemonic <;> rw [hm] at h <;> cases h
    have hrow : ∀ r ∈ opcodeMap, r = r.mnemonic.row := by decide
    rw [hrow r (List.mem_of_find?_eq_some hr), hname] at hsel
    have hmask : w &&& 0xFFFFFFFF = 0x20000000 := by simpa [OpRow.selects, Mnemonic.row] using hsel
    rw [← BitVec.and_allOnes (x := w)]
    exact hmask
  · cases h

/-- A command other than BUILD leaves PHASE or returns to EMPTY (R142). -/
theorem phase_of_exec {i : Instr} (hi : i ≠ .build) {s t : State} (h : exec i s = .next t) :
    t.phase = s.phase ∨ t.phase = .empty := by
  cases commandEffect_of_exec h with
  | refused | shown | encoded | counted | discarded | flushed => exact .inl rfl
  | cleared => exact .inr (clearState_phase s)
  | decoded b =>
    obtain ⟨_, _, _, _, e⟩ := decodeBit_frame b s
    exact .inl (by rw [e]; rfl)
  | seeded | merged | booked => exact absurd rfl hi

/-- With BUSY = 0 a safe sequencer stands at EMPTY or INDEXED. -/
theorem phase_of_sequencerSafe_idle {s : State} (h : SequencerSafe s) (hb : s.busy = false) :
    s.phase = .empty ∨ s.phase = .indexed := by
  cases hp : s.phase with
  | empty => exact .inl rfl
  | indexed => exact .inr rfl
  | seeded | merging | rooted =>
    obtain ⟨hbusy, -⟩ := h (by rw [hp]; rfl)
    rw [hb] at hbusy
    cases hbusy

@[simp] theorem hostReset_phase (n : Nat) (s : State) : (hostReset n s).phase = .empty := resetState_phase _

/-- The core keeps the sequencer safe: in the middle of BUILD the latched command is BUILD (R65). -/
theorem sequencerSafe_exec {i : Instr} {s t : State} (hs : SequencerSafe s) (hb : s.busy = true)
    (hd : decode s.cmdLatch = .ok i) (h : exec i s = .next t) : SequencerSafe t := by
  intro hmid
  by_cases hi : i = .build
  · subst hi
    rcases execBuild_frame h with ⟨-, -, -, ht⟩ | ⟨hp, -⟩
    · rw [ht]
      exact ⟨hb, cmdLatch_of_decode_build hd⟩
    · rw [hp] at hmid
      cases hmid
  · rcases phase_of_exec hi h with hp | hp <;> rw [hp] at hmid
    · rw [(hs hmid).2] at hd
      exact absurd (Except.ok.inj hd).symm hi
    · cases hmid

/-- Every step keeps the sequencer safe. -/
theorem sequencerSafe_step {s t : State} (hs : SequencerSafe s) (h : step s = .next t) : SequencerSafe t := by
  cases stepEffect_of_step h with
  | command l hb hd he => exact sequencerSafe_exec (s := { s with schedule := l }) hs hb hd he
  | illegal l hd =>
    intro hmid
    rw [(hs hmid).2] at hd
    cases hd
  | access hbare hbusy hlatch _ _ =>
    rw [SequencerSafe, hbusy, hlatch, phase_of_bare hbare]
    exact hs
  | latched hidle hbare _ _ _ =>
    intro hmid
    rw [phase_of_bare hbare] at hmid
    rw [(hs hmid).1] at hidle
    cases hidle
  | reset n l rest =>
    intro hmid
    rw [hostReset_phase] at hmid
    cases hmid

/-- Settles O50: in the middle of BUILD the core's step is BUILD's, and no host access but reset changes the
sequencer. -/
theorem stepKeepsSequencer : Obligations.StepKeepsSequencer := by
  intro s t hs h
  have ht := sequencerSafe_step hs h
  exact ⟨ht, phase_of_sequencerSafe_idle ht⟩

/-! ### The tally (R55, R151, R153) -/

/-- Raising one member's term by one raises the sum by one for each occurrence. -/
theorem sum_map_bump {α : Type} [DecidableEq α] (l : List α) (f : α → Nat) (x : α) :
    (l.map (fun y => if x = y then f y + 1 else f y)).sum = (l.map f).sum + l.count x := by
  induction l with
  | nil => rfl
  | cons y l ih =>
    rw [List.map_cons, List.sum_cons, ih, List.map_cons, List.sum_cons, List.count_cons]
    by_cases h : x = y
    · subst h; simp; omega
    · simp [h, Ne.symm h]; omega

theorem freqOf_le_freqTotal (s : State) (x : Symbol) : (freqOf s x).toNat ≤ freqTotal s := by
  rw [freqTotal_eq_sum]
  exact List.single_le_sum (by simp) _ (List.mem_map_of_mem (mem_allSymbols x))

/-- A counted byte raises the sum of FREQ by one, where the byte's own count does not wrap (R152). -/
theorem freqTotal_countByte {s : State} {x : Symbol} (h : (freqOf s x).toNat + 1 < 2 ^ 32) :
    freqTotal (countByte x s) = freqTotal s + 1 := by
  have hcount : ∀ y, (freqOf (countByte x s) y).toNat =
      if x = y then (freqOf s y).toNat + 1 else (freqOf s y).toNat := by
    intro y
    rw [freqOf_countByte]
    split
    · rename_i e
      subst e
      exact BitVec.toNat_add_of_lt h
    · rfl
  rw [freqTotal_eq_sum, freqTotal_eq_sum, List.map_congr_left (fun y _ => hcount y), sum_map_bump,
    List.count_eq_one_of_mem allSymbols_nodup (mem_allSymbols x)]

/-- Counting a byte keeps the tally: a count is at most ORIG_COUNT, which TALLY_BYTE keeps from wrapping (R152). -/
theorem tallyConserved_countByte {s : State} {x : Symbol} (hs : TallyConserved s) (hc : s.origCount ≠ 0xFFFFFFFF) :
    TallyConserved (countByte x s) := by
  have hlt : s.origCount.toNat + 1 < 2 ^ 32 := by
    have hne : s.origCount.toNat ≠ 0xFFFFFFFF := fun e => hc (BitVec.eq_of_toNat_eq e)
    have := s.origCount.isLt
    omega
  have hle := freqOf_le_freqTotal s x
  rw [hs] at hle
  rw [TallyConserved, freqTotal_countByte (by omega), hs]
  exact (BitVec.toNat_add_of_lt (x := s.origCount) (y := 1) hlt).symm

/-- The empty tally is conserved. -/
theorem tallyConserved_of_zero {s : State} (hf : s.freq = Vector.replicate 256 0) (hc : s.origCount = 0) :
    TallyConserved s := by
  have hzero : ∀ x, freqOf s x = 0 := fun x => by simp [freqOf, hf]
  rw [TallyConserved, freqTotal_eq_sum, hc, List.map_congr_left (fun x _ => congrArg BitVec.toNat (hzero x))]
  simp

/-- What a command can do to the tally: leave it, empty it in EMPTY, or count a byte there (R54). -/
theorem tally_of_commandEffect {i : Instr} {s t : State} (h : CommandEffect s i t) :
    (t.freq = s.freq ∧ t.origCount = s.origCount) ∨
    (t.phase = .empty ∧ t.freq = Vector.replicate 256 0 ∧ t.origCount = 0) ∨
    (s.phase = .empty ∧ s.origCount ≠ 0xFFFFFFFF ∧ ∃ x, t = finish (countByte x s)) := by
  have hbuild : i = .build → t.freq = s.freq ∧ t.origCount = s.origCount := by
    rintro rfl
    rw [build_frame h]
    exact ⟨rfl, rfl⟩
  cases h with
  | refused | shown | encoded | flushed => exact .inl ⟨rfl, rfl⟩
  | cleared => exact .inr (.inl (by simp))
  | counted x hp hc => exact .inr (.inr ⟨hp, hc, x, rfl⟩)
  | discarded hp => exact .inr (.inl ⟨hp, rfl, rfl⟩)
  | seeded | merged | booked => exact .inl (hbuild rfl)
  | decoded b =>
    obtain ⟨_, _, _, _, e⟩ := decodeBit_frame b s
    exact .inl ⟨by rw [e]; rfl, by rw [e]; rfl⟩

theorem tallyConserved_command (i : Instr) (s t : State) (h : CommandEffect s i t) (hs : TallyConserved s) :
    TallyConserved t := by
  rcases tally_of_commandEffect h with ⟨hf, hc⟩ | ⟨-, hf, hc⟩ | ⟨-, hc, x, rfl⟩
  · rw [TallyConserved, freqTotal, freqEntries, hf, hc]
    exact hs
  · exact tallyConserved_of_zero hf hc
  · exact tallyConserved_countByte hs hc

theorem tallyConserved_hostReset (n : Nat) (s : State) : TallyConserved (hostReset n s) :=
  tallyConserved_of_zero (resetState_freq _) (resetState_origCount _)

/-- Settles O49, by what a command can do to the tally. -/
theorem stepKeepsTally : Obligations.StepKeepsTally :=
  fun _ _ => step_keeps (fun _ => Iff.rfl) tallyConserved_hostReset tallyConserved_command

/-- Settles O45: outside EMPTY a command leaves the tally or returns to EMPTY. -/
theorem tallyIsFrozenOutsideEmpty : Obligations.TallyIsFrozenOutsideEmpty := by
  intro s t hs h ht
  cases stepEffect_of_step h with
  | command l _ _ he =>
    rcases tally_of_commandEffect (commandEffect_of_exec he) with hkept | ⟨hp, -⟩ | ⟨hp, -⟩
    · exact hkept
    · exact absurd hp ht
    · exact absurd hp hs
  | illegal => exact ⟨rfl, rfl⟩
  | access hbare | latched _ hbare => exact tally_of_bare hbare
  | reset n l rest => exact absurd (hostReset_phase _ _) ht

/-! ### ERRSEEN, the ports, the registers and the walk -/

/-- While BUILD goes on, BUSY stays (R37). -/
theorem busy_of_build {s t : State} (h : mergeOrRoot s = .next t ∨ t = seedStep s) : t.busy = s.busy := by
  rcases h with h | rfl
  · rw [(mergeOrRoot_phase h).2]
  · obtain ⟨_, _, _, e⟩ := seedStep_frame s
    rw [e]

/-- Settles O42, by the command's effect. -/
theorem errSeenIsSticky : Obligations.ErrSeenIsSticky := by
  intro i s t hb h ht
  refine ⟨fun hi => ?_, fun hi => ?_⟩
  · subst hi
    cases h
    exact ⟨rfl, clearState_errSeen s⟩
  · have hgoesOn : mergeOrRoot s = .next t ∨ t = seedStep s → t.errSeen = (s.errSeen || t.err != .ok) := by
      intro hbuild
      rw [busy_of_build hbuild, hb] at ht
      cases ht
    cases commandEffect_of_exec h with
    | refused _ hc => simp [hc]
    | discarded => simp
    | shown | encoded | counted | flushed => simp
    | cleared => exact absurd rfl hi
    | seeded => exact hgoesOn (.inr rfl)
    | merged _ hm => exact hgoesOn (.inl hm)
    | booked =>
      rw [foldl_recordLeaf_frame]
      simp
    | decoded b =>
      obtain ⟨_, _, _, _, e⟩ := decodeBit_frame b s
      rw [e]
      simp

/-- What a command appends to the ports: ENCODE_SYM alone to ENC_OUT and DECODE_BIT alone to DEC_OUT (R64). -/
theorem ports_of_commandEffect {i : Instr} {s t : State} (h : CommandEffect s i t) :
    ∃ e d, t.encOut = s.encOut ++ e ∧ t.decOut = s.decOut ++ d ∧ ((∀ x, i ≠ .encodeSym x) → e = []) ∧
      ((∀ b, i ≠ .decodeBit b) → d = []) := by
  have silent : t.encOut = s.encOut ∧ t.decOut = s.decOut →
      ∃ e d, t.encOut = s.encOut ++ e ∧ t.decOut = s.decOut ++ d ∧ ((∀ x, i ≠ .encodeSym x) → e = []) ∧
        ((∀ b, i ≠ .decodeBit b) → d = []) :=
    fun ⟨he, hd⟩ => ⟨[], [], by rw [he, List.append_nil], by rw [hd, List.append_nil], fun _ => rfl, fun _ => rfl⟩
  have hbuild : i = .build → t.encOut = s.encOut ∧ t.decOut = s.decOut := by
    rintro rfl
    rw [build_frame h]
    exact ⟨rfl, rfl⟩
  cases h with
  | encoded x r bits => exact ⟨bits, [], rfl, (List.append_nil _).symm, fun hi => absurd rfl (hi x), fun _ => rfl⟩
  | decoded b =>
    obtain ⟨sym, emitted, walk, dead, e⟩ := decodeBit_frame b s
    exact ⟨[], emitted, by rw [e, List.append_nil]; rfl, by rw [e]; rfl, fun _ => rfl, fun hi => absurd rfl (hi b)⟩
  | refused | shown | counted | discarded | flushed => exact silent ⟨rfl, rfl⟩
  | cleared => exact silent (by simp)
  | seeded | merged | booked => exact silent (hbuild rfl)

/-- What reset appends to the ports: events of the abandoned command at most (R301). -/
theorem ports_of_hostReset (n : Nat) (s : State) :
    (hostReset n s).encOut = s.encOut ++ (pendingEnc s).take n ∧
      (hostReset n s).decOut = s.decOut ++ (pendingDec s).take n := by
  refine ⟨(resetState_encOut _).trans rfl, (resetState_decOut _).trans rfl⟩

/-- Settles O43, by what a command and reset append to the ports. -/
theorem portsOnlyGrow : Obligations.PortsOnlyGrow := by
  refine ⟨fun s t h => ?_, fun i s t h => ?_⟩
  · cases stepEffect_of_step h with
    | command l _ _ he =>
      obtain ⟨e, d, he, hd, -, -⟩ := ports_of_commandEffect (commandEffect_of_exec he)
      exact ⟨⟨e, he.symm⟩, ⟨d, hd.symm⟩⟩
    | illegal => exact ⟨List.prefix_rfl, List.prefix_rfl⟩
    | access _ _ _ henc hdec | latched _ _ _ henc hdec => exact ⟨⟨[], by simp [henc]⟩, ⟨[], by simp [hdec]⟩⟩
    | reset n l rest =>
      obtain ⟨he, hd⟩ := ports_of_hostReset n { s with schedule := l, host := rest }
      exact ⟨⟨_, he.symm⟩, ⟨_, hd.symm⟩⟩
  · obtain ⟨e, d, he, hd, hnoEnc, hnoDec⟩ := ports_of_commandEffect (commandEffect_of_exec h)
    exact ⟨fun hi => by rw [he, hnoEnc hi, List.append_nil], fun hi => by rw [hd, hnoDec hi, List.append_nil]⟩

/-- No command writes the input registers, the observation or the host's program (R53). -/
theorem inputs_of_commandEffect {i : Instr} {s t : State} (h : CommandEffect s i t) :
    t.cwinLen = s.cwinLen ∧ t.cwin = s.cwin ∧ t.reads = s.reads ∧ t.host = s.host := by
  have hbuild : i = .build → t.cwinLen = s.cwinLen ∧ t.cwin = s.cwin ∧ t.reads = s.reads ∧ t.host = s.host := by
    rintro rfl
    rw [build_frame h]
    exact ⟨rfl, rfl, rfl, rfl⟩
  cases h with
  | refused | shown | encoded | counted | discarded | flushed => exact ⟨rfl, rfl, rfl, rfl⟩
  | cleared => simp
  | seeded | merged | booked => exact hbuild rfl
  | decoded b =>
    obtain ⟨_, _, _, _, e⟩ := decodeBit_frame b s
    rw [e]
    exact ⟨rfl, rfl, rfl, rfl⟩

/-- Setting bit 0 of a word replaces its lowest field. -/
theorem append_or_one (hi : BitVec 31) (b : BitVec 1) : (hi ++ BitVec.ofBool true : Word) = (hi ++ b : Word) ||| 1 := by
  apply BitVec.eq_of_getLsbD_eq
  intro i h
  rw [BitVec.getLsbD_or, BitVec.getLsbD_append, BitVec.getLsbD_append]
  by_cases h0 : i < 1
  · obtain rfl : i = 0 := by omega
    simp
  · have hone : (1#32).getLsbD i = false := BitVec.getLsbD_of_ge 1#1 i (by omega)
    simp [h0, hone]

/-- Settles O44, by the command's effect and by the written register. -/
theorem inputsAndResultsHaveOneWriter : Obligations.InputsAndResultsHaveOneWriter := by
  refine ⟨fun i s t h => inputs_of_commandEffect (commandEffect_of_exec h), fun r v s => ?_⟩
  rcases hostWrite_cases r v s with ⟨rfl, e⟩ | ⟨hr, n, w, e⟩
  · rw [e, if_pos rfl]
    exact ⟨rfl, append_or_one _ _⟩
  · rw [e, if_neg hr]
    exact ⟨rfl, rfl⟩

/-- Settles O47, by the command's effect. -/
theorem onlyDecodeBitMovesTheWalk : Obligations.OnlyDecodeBitMovesTheWalk := by
  intro i s t hi h
  cases commandEffect_of_exec h with
  | refused | shown | encoded | counted | discarded => exact .inl ⟨rfl, rfl⟩
  | cleared => exact .inr (by simp)
  | seeded =>
    obtain ⟨_, _, _, e⟩ := seedStep_frame s
    exact .inl ⟨by rw [e], by rw [e]⟩
  | merged _ hm =>
    rw [(mergeOrRoot_phase hm).2]
    exact .inl ⟨rfl, rfl⟩
  | booked | flushed => exact .inr ⟨rfl, rfl⟩
  | decoded b => exact absurd rfl (hi b)

/-! ### SEED (R174, R175) -/

theorem seedEntry_absent {e : Symbol × Word} (he : e.2 = 0) (s : State) : seedEntry s e = s := by simp [seedEntry, he]

/-- A seeded entry takes the next free record and its place in the queue. -/
theorem seedEntry_present {e : Symbol × Word} (he : e.2 ≠ 0) {s : State} (hc : s.nodeCnt.val < 511) :
    (seedEntry s e).nodeCnt.val = s.nodeCnt.val + 1 ∧
    (∀ i : NodeIdx, (seedEntry s e).node[i] = if i.val = s.nodeCnt.val then .leaf e.1 e.2 else s.node[i]) ∧
    (∀ i : NodeIdx, inQueue (seedEntry s e) i = (decide (i.val = s.nodeCnt.val) || inQueue s i)) := by
  obtain ⟨⟨k, u⟩, hu⟩ := Option.isSome_iff_exists.1 ((alloc_isSome (.leaf e.1 e.2) s).2 hc)
  have hseed : seedEntry s e = enqueue k u := by rw [seedEntry, if_neg he, hu]
  obtain ⟨hk, hcnt, hnode, hframe⟩ := alloc_eq_some hu
  rw [hseed]
  refine ⟨hcnt, fun i => ?_, fun i => ?_⟩
  · simp [hnode, Vector.getElem_set, hk, eq_comm]
  · have hq : inQueue u i = inQueue s i := by rw [hframe]; rfl
    simp [hq, Fin.ext_iff, hk, Bool.or_comm]

/-- The entries SEED places: those with a nonzero count. -/
def seededEntries (l : List (Symbol × Word)) : List (Symbol × Word) := l.filter (fun e => e.2 != 0)

theorem seededEntries_absent {e : Symbol × Word} (he : e.2 = 0) (l : List (Symbol × Word)) :
    seededEntries (e :: l) = seededEntries l := List.filter_cons_of_neg (by simp [he])

theorem seededEntries_present {e : Symbol × Word} (he : e.2 ≠ 0) (l : List (Symbol × Word)) :
    seededEntries (e :: l) = e :: seededEntries l := List.filter_cons_of_pos (by simpa using he)

/-- SEED's loop fills the records from NODE_CNT on, one for each entry with a count, and queues them. -/
theorem foldl_seedEntry_spec (l : List (Symbol × Word)) (s : State)
    (hroom : s.nodeCnt.val + (seededEntries l).length ≤ 511) :
    (l.foldl seedEntry s).nodeCnt.val = s.nodeCnt.val + (seededEntries l).length ∧
    (∀ i : NodeIdx, i.val < s.nodeCnt.val → (l.foldl seedEntry s).node[i] = s.node[i]) ∧
    (∀ (i : NodeIdx) (k : Nat), i.val = s.nodeCnt.val + k → (l.foldl seedEntry s).node[i] =
      ((seededEntries l)[k]?.map (fun e => NodeRec.leaf e.1 e.2)).getD s.node[i]) ∧
    (∀ i : NodeIdx, inQueue (l.foldl seedEntry s) i =
      (decide (s.nodeCnt.val ≤ i.val ∧ i.val < s.nodeCnt.val + (seededEntries l).length) || inQueue s i)) := by
  induction l generalizing s with
  | nil =>
    refine ⟨rfl, fun _ _ => rfl, fun _ _ _ => rfl, fun i => ?_⟩
    have hnone : ¬ (s.nodeCnt.val ≤ i.val ∧ i.val < s.nodeCnt.val + (seededEntries []).length) :=
      fun ⟨h1, h2⟩ => absurd h1 (Nat.not_le.2 h2)
    rw [decide_eq_false hnone, Bool.false_or]
    rfl
  | cons e l ih =>
    rw [List.foldl_cons]
    by_cases he : e.2 = 0
    · rw [seededEntries_absent he] at hroom ⊢
      rw [seedEntry_absent he]
      exact ih s hroom
    · rw [seededEntries_present he, List.length_cons] at hroom
      obtain ⟨hcnt, hnode, hq⟩ := seedEntry_present he (s := s) (by omega)
      obtain ⟨ihcnt, ihold, ihnew, ihq⟩ := ih (seedEntry s e) (by omega)
      rw [seededEntries_present he, List.length_cons]
      refine ⟨by omega, fun i hi => ?_, fun i k hk => ?_, fun i => ?_⟩
      · rw [ihold i (by omega), hnode, if_neg (by omega)]
      · cases k with
        | zero => rw [ihold i (by omega), hnode, if_pos (by omega)]; rfl
        | succ k => rw [ihnew i k (by omega), hnode, if_neg (by omega)]; rfl
      · rw [ihq, hq, ← Bool.or_assoc, ← Bool.decide_or]
        congr 2
        apply propext
        omega

theorem present_eq_seededEntries (s : State) : present s = (seededEntries (freqEntries s)).map Prod.fst := rfl

/-- Each seeded entry holds its symbol's count. -/
theorem seededEntries_getElem {s : State} {k : Nat} {x : Symbol} (h : (present s)[k]? = some x) :
    (seededEntries (freqEntries s))[k]? = some (x, freqOf s x) := by
  rw [present_eq_seededEntries, List.getElem?_map] at h
  obtain ⟨e, he, rfl⟩ := Option.map_eq_some_iff.1 h
  have hmem : e ∈ freqEntries s := List.mem_of_mem_filter (List.mem_of_getElem? he)
  rw [freqEntries_eq] at hmem
  obtain ⟨x, -, rfl⟩ := List.mem_map.1 hmem
  exact he

/-- Everything SEED does: the symbols that occur take the first records and are queued (R174, R175). -/
theorem seedStep_spec (s : State) :
    (seedStep s).nodeCnt.val = (present s).length ∧
    (∀ i : NodeIdx, ∀ x ∈ (present s)[i.val]?, (seedStep s).node[i] = .leaf x (freqOf s x)) ∧
    (∀ i : NodeIdx, (present s).length ≤ i.val → (seedStep s).node[i] = s.node[i]) ∧
    (∀ i : NodeIdx, inQueue (seedStep s) i = (decide (i.val < (present s).length) || inQueue s i)) := by
  have hlen : (seededEntries (freqEntries s)).length = (present s).length := by
    rw [present_eq_seededEntries, List.length_map]
  have hle := present_length_le s
  have hzero : ({ s with nodeCnt := 0 } : State).nodeCnt.val = 0 := rfl
  obtain ⟨hcnt, -, hnode, hq⟩ := foldl_seedEntry_spec (freqEntries s) { s with nodeCnt := 0 } (by omega)
  rw [hlen, hzero, Nat.zero_add] at hcnt
  refine ⟨hcnt, fun i x hx => ?_, fun i hi => ?_, fun i => ?_⟩
  · exact (hnode i i.val (Nat.zero_add _).symm).trans (by rw [seededEntries_getElem hx]; rfl)
  · exact (hnode i i.val (Nat.zero_add _).symm).trans (by rw [List.getElem?_eq_none (by omega)]; rfl)
  · refine (hq i).trans ?_
    rw [hlen, hzero]
    simp
    rfl

/-- Settles O27, by the loop over the frequency entries. -/
theorem buildSeedsTheLeaves : Obligations.BuildSeedsTheLeaves := by
  refine ⟨rfl, fun s hp => ⟨seedStep s, ?_, ?_⟩⟩
  · simp [exec, execBuild, hp]
  · obtain ⟨hcnt, hnode, hkept, hq⟩ := seedStep_spec s
    obtain ⟨n, c, q, e⟩ := seedStep_frame s
    exact ⟨hcnt, hnode, hkept, hq, by rw [e]⟩

/-- A state whose queue is its first records: those records in index order. -/
theorem queue_map_val {s : State} {n : Nat} (hn : n ≤ 511)
    (h : ∀ i : NodeIdx, inQueue s i = decide (i.val < n)) : (queue s).map Fin.val = List.range n := by
  have hfilter : queue s = (List.finRange 511).filter ((fun k => decide (k < n)) ∘ Fin.val) := by
    rw [queue, List.filter_congr (fun i _ => h i)]
    rfl
  rw [hfilter, ← List.filter_map, List.map_coe_finRange_eq_range, ← List.Ico.zero_bot, List.Ico.filter_lt,
    min_eq_right hn, List.Ico.zero_bot]

/-- From an empty queue SEED queues a leaf for each symbol that occurs, in order. -/
theorem seedStep_queue {s : State} (hinq : s.inq = 0) :
    (queue (seedStep s)).map (fun i => (seedStep s).node[i]) =
      (present s).map (fun x => NodeRec.leaf x (freqOf s x)) := by
  obtain ⟨-, hnode, -, hq⟩ := seedStep_spec s
  have hle := present_length_le s
  have hval := queue_map_val (s := seedStep s) (n := (present s).length) (by omega)
    (fun i => by rw [hq]; simp [inQueue, hinq])
  have hlen : (queue (seedStep s)).length = (present s).length := by
    rw [← List.length_map (f := Fin.val), hval, List.length_range]
  apply List.ext_getElem
  · rw [List.length_map, List.length_map, hlen]
  · intro k h1 h2
    have hk : k < (present s).length := by simpa using h2
    have hidx : ((queue (seedStep s))[k]'(by omega)).val = k := by
      have := congrArg (fun l : List Nat => l[k]?) hval
      simpa [hk, hlen] using this
    rw [List.getElem_map, List.getElem_map]
    exact hnode _ _ (by rw [hidx]; exact List.getElem?_eq_getElem hk)

/-! ### MERGE and ROOT (R177, R181) -/

theorem inq_eq_zero_of_queue_nil {s : State} (h : queue s = []) : s.inq = 0 := by
  rw [queue_eq_nil] at h
  apply BitVec.eq_of_getLsbD_eq
  intro i hi
  exact (h ⟨i, hi⟩).trans BitVec.getLsbD_zero.symm

theorem queue_perm_dequeue {s : State} {i : NodeIdx} (h : inQueue s i = true) :
    (queue s).Perm (i :: queue (dequeue i s)) := by
  have he : queue (dequeue i s) = (queue s).erase i := by
    rw [queue_dequeue, (queue_nodup s).erase_eq_filter]
    exact List.filter_congr fun j _ => by simp [bne, beq_eq_decide]
  rw [he]
  exact List.perm_cons_erase ((mem_queue s i).2 h)

theorem queue_perm_enqueue {s : State} {i : NodeIdx} (h : inQueue s i = false) :
    (queue (enqueue i s)).Perm (i :: queue s) := by
  have hnd : (i :: queue s).Nodup :=
    List.nodup_cons.2 ⟨by rw [mem_queue, h]; exact Bool.false_ne_true, queue_nodup s⟩
  rw [List.perm_ext_iff_of_nodup (queue_nodup _) hnd]
  intro j
  rw [mem_queue, inQueue_enqueue, List.mem_cons, mem_queue, Bool.or_eq_true, decide_eq_true_eq, or_comm]

/-- What BUILD's step after SEED or a MERGE does, by how many nodes are queued. -/
inductive JoinEffect (s : State) : State → Prop
  /-- None: the root is NULL (R181). -/
  | empty (hq : queue s = []) : JoinEffect s (rootEmpty s)
  /-- A lone leaf goes beneath a synthetic root (R182). -/
  | leaf {r p : NodeIdx} {c : Fin 512} (hq : queue s = [r]) (hl : isLeaf s r = true) (hp : p.val = s.nodeCnt.val)
      (hc : c.val = s.nodeCnt.val + 1) :
      JoinEffect s { s with
        inq := 0, node := s.node.set p.val (.internal (weightOf s r) (some r) none) p.isLt, nodeCnt := c,
        root := some p, phase := .rooted }
  /-- A lone internal node is the root (R181). -/
  | internal {r : NodeIdx} (hq : queue s = [r]) (hl : isLeaf s r = false) :
      JoinEffect s { s with inq := 0, root := some r, phase := .rooted }
  /-- Two nodes or more: two of them are joined under a new node, which takes their place in the queue (R177). -/
  | merge {a b p : NodeIdx} {c : Fin 512} {q : BitVec 511} {rest : List NodeIdx}
      (hbefore : (queue s).Perm (a :: b :: rest)) (hafter : (queue { s with inq := q }).Perm (p :: rest))
      (hp : p.val = s.nodeCnt.val) (hc : c.val = s.nodeCnt.val + 1) :
      JoinEffect s { s with
        node := s.node.set p.val (.internal (weightOf s a + weightOf s b) (some b) (some a)) p.isLt, nodeCnt := c,
        inq := q, phase := .merging }

/-- Where only allocated nodes are queued, MERGE and ROOT have these effects. -/
theorem joinEffect_of_mergeOrRoot {s t : State} (halloc : ∀ i : NodeIdx, inQueue s i = true → i.val < s.nodeCnt.val)
    (h : mergeOrRoot s = .next t) : JoinEffect s t := by
  rcases mergeOrRoot_cases h with ⟨hpop, rfl⟩ | ⟨r, u, hpop, hlast, hroot⟩ | ⟨a, b, u, v, hpop, hpop', hmerge⟩
  · exact .empty ((popMin_eq_none s).1 hpop)
  · obtain ⟨hr, -, rfl⟩ := popMin_spec hpop
    rw [popMin_eq_none] at hlast
    have hq : queue s = [r] := by
      have hperm := queue_perm_dequeue hr
      rw [hlast] at hperm
      exact List.perm_singleton.1 hperm
    have hinq : (dequeue r s).inq = 0 := inq_eq_zero_of_queue_nil hlast
    rcases rootNode_next hroot with ⟨hl, p, w, hw, rfl⟩ | ⟨hl, rfl⟩
    · obtain ⟨hp, hc, hnode, hframe⟩ := alloc_eq_some hw
      have hstate : ({ w with root := some p, phase := .rooted } : State) = { s with
          inq := 0, node := s.node.set p.val (.internal (weightOf s r) (some r) none) p.isLt, nodeCnt := w.nodeCnt,
          root := some p, phase := .rooted } := by
        rw [hframe, hnode, hinq.symm]
        rfl
      rw [hstate]
      exact .leaf hq hl hp hc
    · have hstate : ({ dequeue r s with root := some r, phase := .rooted } : State) =
          { s with inq := 0, root := some r, phase := .rooted } := by
        rw [hinq.symm]
        rfl
      rw [hstate]
      exact .internal hq hl
  · obtain ⟨ha, -, rfl⟩ := popMin_spec hpop
    obtain ⟨hb, -, rfl⟩ := popMin_spec hpop'
    obtain ⟨p, w, hw, rfl⟩ := mergeNodes_next hmerge
    obtain ⟨hp, hc, hnode, hframe⟩ := alloc_eq_some hw
    have hfresh : inQueue (dequeue b (dequeue a s)) p = false := by
      have hs : inQueue s p = false := by
        by_contra hin
        have := halloc p (Bool.not_eq_false _ ▸ hin)
        simp only [dequeue_nodeCnt] at hp
        omega
      simp [hs]
    have hstate : ({ enqueue p w with phase := .merging } : State) = { s with
        node := s.node.set p.val (.internal (weightOf s a + weightOf s b) (some b) (some a)) p.isLt,
        nodeCnt := w.nodeCnt, inq := (enqueue p (dequeue b (dequeue a s))).inq, phase := .merging } := by
      rw [hframe, hnode]
      rfl
    rw [hstate]
    exact .merge ((queue_perm_dequeue ha).trans ((queue_perm_dequeue hb).cons a)) (queue_perm_enqueue hfresh) hp hc

/-! ### What each phase leaves empty, and the tree's shape (R57 to R62, R200, R241) -/

/-- The promises of StepKeepsTreeShape together. -/
abbrev Shaped (s : State) : Prop := QuietOutsideBuild s ∧ TreeShaped s

/-- What every phase before INDEXED leaves empty (R60, R61, R62). -/
abbrev CodeEmpty (s : State) : Prop :=
  s.compBits = 0 ∧ s.cbLen = Vector.replicate 256 0 ∧ s.walkNode = none ∧ s.walkDead = false

theorem quiet_of_midBuild {s : State} (hp : midBuild s.phase = true) (hinq : queueing s.phase = false → s.inq = 0)
    (hroot : hasRoot s.phase = false → s.root = none)
    (hcode : CodeEmpty s) : QuietOutsideBuild s := by
  refine ⟨fun h => ?_, hinq, hroot, fun _ => hcode⟩
  rw [h] at hp
  cases hp

/-- In the middle of BUILD the walk is on NULL, so the tree's shape is that of its nodes, queue and root. -/
theorem treeShaped_of_midBuild {s : State} (hp : midBuild s.phase = true) (hwalk : s.walkNode = none)
    (hqueue : ∀ i : NodeIdx, inQueue s i = true → i.val < s.nodeCnt.val)
    (hbelow : ∀ i : NodeIdx, i.val < s.nodeCnt.val → childrenBelow i.val s.node[i] = true)
    (hroot : ∀ r ∈ s.root, r.val < s.nodeCnt.val ∧ isLeaf s r = false) : TreeShaped s := by
  refine ⟨hqueue, hbelow, hroot, fun c hc => ?_, fun h => ?_⟩
  · rw [hwalk] at hc
    cases hc
  · rw [h] at hp
    cases hp

theorem quiet_of_indexed {s : State} (hp : s.phase = .indexed) (hinq : s.inq = 0) : QuietOutsideBuild s := by
  refine ⟨fun h => ?_, fun _ => hinq, fun h => ?_, fun h => absurd hp h⟩ <;> rw [hp] at h <;> cases h

theorem inQueue_of_inq_zero {s : State} (h : s.inq = 0) (i : NodeIdx) : inQueue s i = false := by simp [inQueue, h]

/-- In EMPTY a state that is quiet has no node, no root and no walk, so its tree is a tree. -/
theorem treeShaped_of_empty {s : State} (hp : s.phase = .empty) (hq : QuietOutsideBuild s) : TreeShaped s := by
  obtain ⟨hcnt, hinq, hroot, hwalk⟩ := hq
  have hcnt := hcnt hp
  have hroot := hroot (by rw [hp]; rfl)
  obtain ⟨-, -, hwalk, -⟩ := hwalk (by rw [hp]; decide)
  refine ⟨fun i hi => ?_, fun i hi => ?_, fun r hr => ?_, fun c hc => ?_, fun h => ?_⟩
  · rw [inQueue_of_inq_zero (hinq (by rw [hp]; rfl))] at hi
    cases hi
  · omega
  · rw [hroot] at hr
    cases hr
  · rw [hwalk] at hc
    cases hc
  · rw [hp] at h
    cases h

/-- CLEAR leaves everything empty that EMPTY leaves so. -/
theorem quiet_clearState (s : State) : QuietOutsideBuild (clearState s) := by simp [QuietOutsideBuild, hasRoot]

theorem quiet_resetState (s : State) : QuietOutsideBuild (resetState s) := quiet_clearState s

theorem quiet_hostReset (n : Nat) (s : State) : QuietOutsideBuild (hostReset n s) := quiet_resetState _

theorem shaped_hostReset (n : Nat) (s : State) : Shaped (hostReset n s) :=
  ⟨quiet_hostReset n s, treeShaped_of_empty (hostReset_phase n s) (quiet_hostReset n s)⟩

/-- A record of an index below the written one stays. -/
theorem getElem_set_below {node : Vector NodeRec 511} {p i : NodeIdx} (h : i.val < p.val) (n : NodeRec) :
    (node.set p.val n p.isLt)[i] = node[i] := by
  have : p.val ≠ i.val := by omega
  simp [this]

theorem getElem_set_at (node : Vector NodeRec 511) (p : NodeIdx) (n : NodeRec) :
    (node.set p.val n p.isLt)[p] = n := by simp

/-- A new record at NODE_CNT keeps every allocated record's children below it, where its own are. -/
theorem childrenBelow_set {node : Vector NodeRec 511} {p : NodeIdx} {n : NodeRec}
    (hbelow : ∀ i : NodeIdx, i.val < p.val → childrenBelow i.val node[i] = true) (hn : childrenBelow p.val n = true)
    (i : NodeIdx) (hi : i.val < p.val + 1) : childrenBelow i.val (node.set p.val n p.isLt)[i] = true := by
  rcases Nat.lt_succ_iff_lt_or_eq.1 hi with h | h
  · rw [getElem_set_below h]
    exact hbelow i h
  · obtain rfl : i = p := Fin.ext h
    rw [getElem_set_at]
    exact hn

/-- A node's children have smaller indices (R200). -/
theorem child_lt {k : Nat} {w : Word} {l r : NodeRef} (h : childrenBelow k (.internal w l r) = true) (b : Bool) :
    ∀ j ∈ child b l r, j.val < k := by
  intro j hj
  cases l with
  | none => cases h
  | some l =>
    cases r with
    | none =>
      cases b <;> cases hj
      simpa [childrenBelow] using h
    | some r =>
      obtain ⟨hl, hr⟩ : l.val < k ∧ r.val < k := by simpa [childrenBelow] using h
      cases b <;> cases hj
      · exact hl
      · exact hr

/-- SEED keeps the shape: the leaves it queues are the only nodes. -/
theorem shaped_seedStep {s : State} (hp : s.phase = .empty) (hs : Shaped s) : Shaped (seedStep s) := by
  obtain ⟨⟨-, hinq, hroot, hcode⟩, -⟩ := hs
  have hinq := hinq (by rw [hp]; rfl)
  obtain ⟨hcnt, hnode, -, hq⟩ := seedStep_spec s
  obtain ⟨_, _, _, e⟩ := seedStep_frame s
  have hroot : (seedStep s).root = none := by
    rw [e]
    exact hroot (by rw [hp]; rfl)
  have hcode : CodeEmpty (seedStep s) := by
    rw [e]
    exact hcode (by rw [hp]; decide)
  have ⟨_, _, hwalk, _⟩ := hcode
  refine ⟨quiet_of_midBuild rfl (fun h => by cases h) (fun _ => hroot) hcode,
    treeShaped_of_midBuild rfl hwalk (fun i hi => ?_) (fun i hi => ?_) fun r hr => ?_⟩
  · rw [hq, inQueue_of_inq_zero hinq, Bool.or_false, decide_eq_true_eq] at hi
    omega
  · rw [hcnt] at hi
    rw [hnode i _ (List.getElem?_eq_getElem hi)]
    rfl
  · rw [hroot] at hr
    cases hr

/-- MERGE and ROOT keep the shape: a new node's children are queued, so they are below it. -/
theorem shaped_joinEffect {s t : State} (hp : queueing s.phase = true) (hs : Shaped s) (h : JoinEffect s t) :
    Shaped t := by
  obtain ⟨⟨-, -, hroot, hcode⟩, hqueue, hbelow, -, -, -⟩ := hs
  have hphase : hasRoot s.phase = false ∧ s.phase ≠ .indexed := by
    cases hph : s.phase <;> simp_all [queueing, hasRoot]
  have hroot := hroot hphase.1
  have hcode := hcode hphase.2
  have ⟨_, _, hwalk, _⟩ := hcode
  have halloc : ∀ {i l}, (queue s).Perm l → i ∈ l → i.val < s.nodeCnt.val := fun hl hi =>
    hqueue _ ((mem_queue s _).1 (hl.mem_iff.2 hi))
  cases h with
  | empty hq =>
    have hinq := inq_eq_zero_of_queue_nil hq
    exact ⟨quiet_of_midBuild rfl (fun _ => hinq) (fun _ => rfl) hcode,
      treeShaped_of_midBuild rfl hwalk hqueue hbelow fun r hr => by cases hr⟩
  | @leaf r p c hq hl hpv hc =>
    have hr : r.val < p.val := hpv ▸ halloc (List.Perm.of_eq hq) (List.mem_singleton_self r)
    refine ⟨quiet_of_midBuild rfl (fun _ => rfl) (fun h => by cases h) hcode,
      treeShaped_of_midBuild rfl hwalk (fun i hi => ?_) (fun i hi => ?_) fun x hx => ?_⟩
    · rw [inQueue_of_inq_zero rfl] at hi
      cases hi
    · exact childrenBelow_set (fun j hj => hbelow j (hpv ▸ hj)) (by simpa [childrenBelow] using hr) i
        (by rw [hpv, ← hc]; exact hi)
    · cases hx
      exact ⟨show p.val < c.val by omega, by simp [isLeaf, nodeIsLeaf]⟩
  | @internal r hq hl =>
    refine ⟨quiet_of_midBuild rfl (fun _ => rfl) (fun h => by cases h) hcode,
      treeShaped_of_midBuild rfl hwalk (fun i hi => ?_) hbelow fun x hx => ?_⟩
    · rw [inQueue_of_inq_zero rfl] at hi
      cases hi
    · cases hx
      exact ⟨halloc (List.Perm.of_eq hq) (List.mem_singleton_self _), hl⟩
  | @merge a b p c q rest hbefore hafter hpv hc =>
    have ha : a.val < p.val := hpv ▸ halloc hbefore (by simp)
    have hb : b.val < p.val := hpv ▸ halloc hbefore (by simp)
    refine ⟨quiet_of_midBuild rfl (fun h => by cases h) (fun _ => hroot) hcode,
      treeShaped_of_midBuild rfl hwalk (fun i hi => show i.val < c.val from ?_) (fun i hi => ?_) fun x hx => ?_⟩
    · rcases List.mem_cons.1 (hafter.mem_iff.1 ((mem_queue { s with inq := q } i).2 hi)) with rfl | hrest
      · omega
      · have := halloc (i := i) hbefore (by simp [hrest])
        omega
    · exact childrenBelow_set (fun j hj => hbelow j (hpv ▸ hj)) (by simpa [childrenBelow] using ⟨hb, ha⟩) i
        (by rw [hpv, ← hc]; exact hi)
    · rw [hroot] at hx
      cases hx

/-- Where DECODE_BIT moves the walk to: the child of its node that the bit names, an internal node (R238). -/
theorem walkMove_moveTo {b : Bool} {s : State} {i : NodeIdx} (h : walkMove b s = .moveTo i) :
    ∃ (c : NodeIdx) (w : Word) (l r : NodeRef), s.walkNode = some c ∧ s.node[c] = .internal w l r ∧
      child b l r = some i ∧ isLeaf s i = false := by
  unfold walkMove at h
  split at h
  · cases h
  · split at h
    · cases h
    · rename_i c hc
      split at h
      · cases h
      · rename_i w l r hnode
        split at h
        · cases h
        · rename_i j hj
          split at h
          · cases h
          · rename_i hrec
            cases h
            exact ⟨c, w, l, r, hc, hnode, hj, by rw [isLeaf, hrec]; rfl⟩

/-- Where DECODE_BIT leaves the walk: where it was, at the root, or on an internal child of its node. -/
theorem walkNode_decodeBit (b : Bool) (s : State) :
    (decodeBit b s).walkNode = s.walkNode ∨ (decodeBit b s).walkNode = s.root ∨
      ∃ i, walkMove b s = .moveTo i ∧ (decodeBit b s).walkNode = some i := by
  unfold decodeBit
  cases hm : walkMove b s with
  | stayDead | die => exact .inl rfl
  | found x => exact .inr (.inl rfl)
  | moveTo i => exact .inr (.inr ⟨i, rfl, rfl⟩)

/-- DECODE_BIT keeps the walk on an allocated internal node. -/
theorem shaped_decodeBit {b : Bool} {s : State} (hp : s.phase = .indexed) (hs : Shaped s) :
    Shaped (finish (decodeBit b s)) := by
  obtain ⟨⟨-, hinq, -, -⟩, hqueue, hbelow, hroot, hwalk, hon⟩ := hs
  have hinq := hinq (by rw [hp]; rfl)
  have hcases := walkNode_decodeBit b s
  obtain ⟨_, _, walk, _, e⟩ := decodeBit_frame b s
  rw [e] at hcases ⊢
  refine ⟨quiet_of_indexed hp hinq, hqueue, hbelow, hroot, ?_, ?_⟩
  · rcases hcases with h | h | ⟨i, hm, h⟩ <;> intro c hc
    · exact hwalk c (h ▸ hc)
    · exact hroot c (h ▸ hc)
    · obtain ⟨cur, w, l, r, hcur, hnode, hchild, hleaf⟩ := walkMove_moveTo hm
      obtain ⟨hlt, -⟩ := hwalk cur hcur
      have hb := hbelow cur hlt
      rw [hnode] at hb
      have hi := child_lt hb b i hchild
      obtain rfl : i = c := Option.some.inj (h.symm.trans hc)
      exact ⟨hi.trans hlt, hleaf⟩
  · intro _ hr
    rcases hcases with h | h | ⟨i, -, h⟩
    · exact (congrArg Option.isSome h).trans (hon hp hr)
    · exact (congrArg Option.isSome h).trans hr
    · exact congrArg Option.isSome h

/-- A walk at rest on a tree's root has the shape. -/
theorem treeShaped_restWalk {s : State} (hs : TreeShaped s) : TreeShaped (restWalk s) := by
  obtain ⟨hqueue, hbelow, hroot, -, -⟩ := hs
  exact ⟨hqueue, hbelow, hroot, hroot, fun _ h => h⟩

/-- Every command keeps the shape. -/
theorem shaped_command (i : Instr) (s t : State) (h : CommandEffect s i t) (hs : Shaped s) : Shaped t := by
  cases h with
  | refused | shown | encoded | counted | discarded => exact hs
  | cleared => exact ⟨quiet_clearState s, treeShaped_of_empty (clearState_phase s) (quiet_clearState s)⟩
  | seeded hp => exact shaped_seedStep hp hs
  | merged hp h =>
    have ⟨_, halloc, _⟩ := hs
    exact shaped_joinEffect hp hs (joinEffect_of_mergeOrRoot halloc h)
  | booked hp _ =>
    obtain ⟨⟨-, hinq, -, -⟩, htree⟩ := hs
    have hinq := hinq (by rw [hp]; rfl)
    obtain ⟨hqueue, hbelow, hroot, -, hon⟩ := treeShaped_restWalk htree
    rw [foldl_recordLeaf_frame]
    exact ⟨quiet_of_indexed rfl hinq, hqueue, hbelow, hroot, hroot, fun _ h => h⟩
  | decoded b hp => exact shaped_decodeBit hp hs
  | flushed hp =>
    obtain ⟨⟨-, hinq, -, -⟩, htree⟩ := hs
    have hinq := hinq (by rw [hp]; rfl)
    have hrest := treeShaped_restWalk htree
    exact ⟨quiet_of_indexed (s := restWalk s) hp hinq, hrest⟩

theorem shaped_step {s t : State} (hs : Shaped s) (h : step s = .next t) : Shaped t :=
  step_keeps (fun _ => Iff.rfl) shaped_hostReset shaped_command hs h

/-- Settles O51, command by command. -/
theorem stepKeepsTreeShape : Obligations.StepKeepsTreeShape := fun _ _ hquiet htree => shaped_step ⟨hquiet, htree⟩

/-! ### The nodes' contents and the code book (R66, R179, R183, R196, R200) -/

/-- The promises of `Safe` about the nodes' contents and the code book. -/
abbrev TreeAgrees (s : State) : Prop := WeightsConserved s ∧ ForestKnown s ∧ NodesCounted s ∧ BookAgrees s

/-- In EMPTY there is no node, and nothing else is promised. -/
theorem treeAgrees_of_empty {s : State} (hp : s.phase = .empty) (hc : s.nodeCnt.val = 0) : TreeAgrees s := by
  simp [TreeAgrees, WeightsConserved, ForestKnown, NodesCounted, BookAgrees, hp, hc, queueing, hasRoot]

theorem present_congr {s t : State} (h : t.freq = s.freq) : present t = present s := by
  simp only [present, freqEntries, h]

theorem freqOf_congr {s t : State} (h : t.freq = s.freq) (x : Symbol) : freqOf t x = freqOf s x := by
  simp only [freqOf, h]

/-- The counts of the present symbols add up to the whole tally. -/
theorem sum_present (s : State) : ((present s).map (fun x => (freqOf s x).toNat)).sum = freqTotal s := by
  have h := sum_present_eq_sum_allSymbols s (fun _ => 1)
  simp only [Nat.mul_one] at h
  rw [h, freqTotal_eq_sum]

/-! #### Leaves -/

theorem leavesOf_eq {s : State} {i : NodeIdx} {n : Nat} {ls : List LeafPath} (h : leafPaths n s.node i = some ls)
    (hn : n ≤ 256) : leavesOf s i = ls := by
  rw [leavesOf, leafPaths_mono h hn]
  rfl

theorem leavesOf_leaf {s : State} {i : NodeIdx} {x : Symbol} {w : Word} (h : s.node[i] = .leaf x w) :
    leavesOf s i = [⟨x, w, []⟩] :=
  leavesOf_eq (leafPaths_leaf 0 h) (by omega)

theorem isLeaf_eq_true {s : State} {i : NodeIdx} : isLeaf s i = true ↔ ∃ x w, s.node[i] = .leaf x w := by
  unfold isLeaf
  cases s.node[i] <;> simp [nodeIsLeaf]

theorem isLeaf_eq_false {s : State} {i : NodeIdx} : isLeaf s i = false ↔ ∃ w l r, s.node[i] = .internal w l r := by
  unfold isLeaf
  cases s.node[i] <;> simp [nodeIsLeaf]

/-- A traversal that succeeds reaches a leaf: it has at least the level of its own node. -/
theorem leafPaths_level_pos {node : Vector NodeRec 511} {n : Nat} {i : NodeIdx} {ls : List LeafPath}
    (h : leafPaths n node i = some ls) : 0 < n := by
  cases n with
  | zero => cases h
  | succ n => exact Nat.succ_pos n

/-- The leaves below a node with two children: the left child's, then the right one's. -/
theorem leafPaths_pair {node : Vector NodeRec 511} {p a b : NodeIdx} {w : Word} {n : Nat} {la lb : List LeafPath}
    (hp : node[p] = .internal w (some b) (some a)) (ha : leafPaths n node a = some la)
    (hb : leafPaths n node b = some lb) :
    leafPaths (n + 1) node p = some (lb.map (LeafPath.under false) ++ la.map (LeafPath.under true)) :=
  (leafPaths_internal n hp _).2 ⟨_, _, by rw [leavesUnder, hb]; rfl, by rw [leavesUnder, ha]; rfl, rfl⟩

/-- The leaves below the synthetic root: its left child's (R182). -/
theorem leafPaths_single {node : Vector NodeRec 511} {p r : NodeIdx} {w : Word} {n : Nat} {ls : List LeafPath}
    (hp : node[p] = .internal w (some r) none) (hr : leafPaths n node r = some ls) :
    leafPaths (n + 1) node p = some (ls.map (LeafPath.under false)) :=
  (leafPaths_internal n hp _).2 ⟨_, [], by rw [leavesUnder, hr]; rfl, rfl, (List.append_nil _).symm⟩

/-- No leaf below an internal node is at the end of the empty path. -/
theorem path_ne_nil_of_internal {node : Vector NodeRec 511} {i : NodeIdx} {w : Word} {l r : NodeRef} {n : Nat}
    {ls : List LeafPath} (hi : node[i] = .internal w l r) (h : leafPaths n node i = some ls) :
    ∀ p ∈ ls, p.path ≠ [] := by
  have side : ∀ {b c ks m}, leavesUnder (leafPaths m node) b c = some ks → ∀ p ∈ ks, p.path ≠ [] := by
    intro b c ks m hk p hp
    rcases leavesUnder_eq_some hk with ⟨-, rfl⟩ | ⟨j, js, -, -, rfl⟩
    · cases hp
    · obtain ⟨q, -, rfl⟩ := List.mem_map.1 hp
      simp [LeafPath.under]
  obtain ⟨m, rfl⟩ := Nat.exists_eq_succ_of_ne_zero (leafPaths_level_pos h).ne'
  obtain ⟨ls, rs, hl, hr, rfl⟩ := (leafPaths_internal m hi _).1 h
  intro p hp
  rcases List.mem_append.1 hp with hp | hp
  · exact side hl p hp
  · exact side hr p hp

theorem map_sym_under (b : Bool) (ls : List LeafPath) :
    (ls.map (LeafPath.under b)).map LeafPath.sym = ls.map LeafPath.sym := by
  rw [List.map_map]
  rfl

/-! #### SEED keeps the promises -/

/-- Nodes that are the leaves of a list of symbols have those leaves. -/
theorem flatMap_leavesOf_leaves {s : State} {l : List NodeIdx} {xs : List Symbol} {g : Symbol → Word}
    (h : l.map (fun i => s.node[i]) = xs.map (fun x => NodeRec.leaf x (g x))) :
    l.flatMap (leavesOf s) = xs.map (fun x => ⟨x, g x, []⟩) := by
  induction l generalizing xs with
  | nil =>
    obtain rfl : xs = [] := List.map_eq_nil_iff.1 h.symm
    rfl
  | cons i l ih =>
    cases xs with
    | nil => cases h
    | cons x xs =>
      obtain ⟨hi, hl⟩ := List.cons.inj h
      rw [List.flatMap_cons, leavesOf_leaf hi, ih hl]
      rfl

theorem seedStep_freq (s : State) : (seedStep s).freq = s.freq := by
  obtain ⟨_, _, _, e⟩ := seedStep_frame s
  rw [e]

theorem seedStep_origCount (s : State) : (seedStep s).origCount = s.origCount := by
  obtain ⟨_, _, _, e⟩ := seedStep_frame s
  rw [e]

theorem present_seedStep (s : State) : present (seedStep s) = present s := present_congr (seedStep_freq s)

theorem freqOf_seedStep (s : State) (x : Symbol) : freqOf (seedStep s) x = freqOf s x :=
  freqOf_congr (seedStep_freq s) x

/-- After SEED every node is a leaf. -/
theorem seedStep_node {s : State} {i : NodeIdx} (hi : i.val < (seedStep s).nodeCnt.val) :
    ∃ x w, (seedStep s).node[i] = .leaf x w := by
  obtain ⟨hcnt, hnode, -, -⟩ := seedStep_spec s
  rw [hcnt] at hi
  exact ⟨_, _, hnode i _ (List.getElem?_eq_getElem hi)⟩

/-- From an empty queue every node SEED queues is a leaf with its symbol's count. -/
theorem seedStep_queued {s : State} (hinq : s.inq = 0) :
    ∀ i ∈ queue (seedStep s), ∃ x, (seedStep s).node[i] = .leaf x (freqOf s x) := by
  have hrecords : ∀ n ∈ (queue (seedStep s)).map (fun i => (seedStep s).node[i]), ∃ x, n = .leaf x (freqOf s x) := by
    rw [seedStep_queue hinq]
    intro n hn
    obtain ⟨x, -, rfl⟩ := List.mem_map.1 hn
    exact ⟨x, rfl⟩
  exact fun i hi => hrecords _ (List.mem_map_of_mem hi)

theorem weights_seedStep {s : State} (ht : TallyConserved s) (hinq : s.inq = 0) : WeightsConserved (seedStep s) := by
  refine ⟨fun i hi => ?_, fun _ => ?_, fun h => by cases h⟩
  · obtain ⟨x, w, hx⟩ := seedStep_node hi
    rw [weightIsSum, hx]
  · have hsum := congrArg (fun l => (l.map (fun n => (nodeWeight n).toNat)).sum) (seedStep_queue hinq)
    simp only [List.map_map] at hsum
    rw [seedStep_origCount, ← ht, ← sum_present]
    exact hsum

theorem forest_seedStep {s : State} (hinq : s.inq = 0) : ForestKnown (seedStep s) := by
  refine ⟨fun _ => ⟨fun i hi => ?_, ?_, fun i hi p hpl => ?_⟩, fun h => by cases h⟩
  · obtain ⟨x, hx⟩ := seedStep_queued hinq i hi
    rw [leavesOf_leaf hx]
    exact leafPaths_leaf 0 hx
  · rw [flatMap_leavesOf_leaves (seedStep_queue hinq), present_seedStep, List.map_map]
    exact .of_eq (List.map_id _)
  · obtain ⟨x, hx⟩ := seedStep_queued hinq i hi
    rw [leavesOf_leaf hx, List.mem_singleton] at hpl
    rw [hpl, freqOf_seedStep]

theorem nodes_seedStep {s : State} (hinq : s.inq = 0) : NodesCounted (seedStep s) := by
  obtain ⟨hcnt, hnode, -, -⟩ := seedStep_spec s
  have hlen : (queue (seedStep s)).length = (present s).length := by
    have h := congrArg List.length (seedStep_queue hinq)
    rwa [List.length_map, List.length_map] at h
  rw [NodesCounted, present_seedStep]
  refine ⟨fun _ => ?_, fun _ => hcnt, fun h => (by cases h), fun h => (by cases h), fun _ =>
    ⟨fun i hi => ?_, fun i hi x hx => ?_⟩⟩
  · rw [hcnt, hlen, Nat.two_mul]
  · rw [isLeaf_eq_true.2 (seedStep_node hi), decide_eq_true (hcnt ▸ hi)]
  · rw [hnode i x hx, freqOf_seedStep]

/-- SEED's leaves are the frequency entries. -/
theorem treeAgrees_seedStep {s : State} (hp : s.phase = .empty) (ht : TallyConserved s) (hq : QuietOutsideBuild s) :
    TreeAgrees (seedStep s) := by
  obtain ⟨-, hinq, -⟩ := hq
  have hinq : s.inq = 0 := hinq (by rw [hp]; rfl)
  exact ⟨weights_seedStep ht hinq, forest_seedStep hinq, nodes_seedStep hinq, fun h => by cases h⟩

/-! #### MERGE and ROOT keep the promises -/

section Allocation

variable {s t : State} {p : NodeIdx} {n : NodeRec} (hnode : t.node = s.node.set p.val n p.isLt)
  (hbelow : ∀ i : NodeIdx, i.val < p.val → childrenBelow i.val s.node[i] = true)
include hnode

theorem node_of_set_below {i : NodeIdx} (hi : i.val < p.val) : t.node[i] = s.node[i] := by
  rw [hnode, getElem_set_below hi]

theorem node_of_set_at : t.node[p] = n := by rw [hnode, getElem_set_at]

theorem weightOf_set_below {i : NodeIdx} (hi : i.val < p.val) : weightOf t i = weightOf s i := by
  rw [weightOf, node_of_set_below hnode hi, weightOf]

theorem isLeaf_set_below {i : NodeIdx} (hi : i.val < p.val) : isLeaf t i = isLeaf s i := by
  rw [isLeaf, node_of_set_below hnode hi, isLeaf]

theorem refWeight_set_below {c : NodeRef} (hc : ∀ j ∈ c, j.val < p.val) : refWeight t c = refWeight s c := by
  cases c with
  | none => rfl
  | some j => rw [refWeight, weightOf_set_below hnode (hc j rfl), refWeight]

include hbelow

theorem leafPaths_set_below {i : NodeIdx} (hi : i.val < p.val) (m : Nat) :
    leafPaths m t.node i = leafPaths m s.node i := by
  rw [hnode, leafPaths_set p.isLt n hbelow m i hi]

theorem leavesOf_set_below {i : NodeIdx} (hi : i.val < p.val) : leavesOf t i = leavesOf s i := by
  rw [leavesOf, leafPaths_set_below hnode hbelow hi, leavesOf]

end Allocation

theorem weightIsSum_iff {s : State} {i : NodeIdx} : weightIsSum s i = true ↔
    ∀ w l r, s.node[i] = .internal w l r → w.toNat = refWeight s l + refWeight s r := by
  unfold weightIsSum
  cases s.node[i] <;> simp

/-- A new record at NODE_CNT keeps every weight the sum of its children's, where its own is. -/
theorem weightIsSum_set {s t : State} {p : NodeIdx} {n : NodeRec} (hnode : t.node = s.node.set p.val n p.isLt)
    (hbelow : ∀ i : NodeIdx, i.val < p.val → childrenBelow i.val s.node[i] = true)
    (hn : childrenBelow p.val n = true) (hold : ∀ i : NodeIdx, i.val < p.val → weightIsSum s i = true)
    (hnew : ∀ w l r, n = .internal w l r → w.toNat = refWeight s l + refWeight s r) {i : NodeIdx}
    (hi : i.val < p.val + 1) : weightIsSum t i = true := by
  have key : i.val ≤ p.val → childrenBelow i.val t.node[i] = true →
      (∀ w l r, t.node[i] = .internal w l r → w.toNat = refWeight s l + refWeight s r) → weightIsSum t i = true := by
    intro hle hb hsum
    rw [weightIsSum_iff]
    intro w l r he
    rw [he] at hb
    rw [refWeight_set_below (c := l) hnode fun j hj => (child_lt hb false j hj).trans_le hle,
      refWeight_set_below (c := r) hnode fun j hj => (child_lt hb true j hj).trans_le hle]
    exact hsum w l r he
  rcases Nat.lt_succ_iff_lt_or_eq.1 hi with h | h
  · have he := node_of_set_below hnode h
    exact key h.le (by rw [he]; exact hbelow i h) (by rw [he]; exact weightIsSum_iff.1 (hold i h))
  · obtain rfl : i = p := Fin.ext h
    have he := node_of_set_at hnode
    exact key le_rfl (by rw [he]; exact hn) (by rw [he]; exact hnew)

/-- The weights that a list of nodes carries. -/
def weightSum (s : State) (l : List NodeIdx) : Nat := (l.map (fun i => (weightOf s i).toNat)).sum

theorem weightSum_perm {s : State} {l k : List NodeIdx} (h : l.Perm k) : weightSum s l = weightSum s k :=
  (h.map _).sum_eq

theorem weightSum_cons (s : State) (i : NodeIdx) (l : List NodeIdx) :
    weightSum s (i :: l) = (weightOf s i).toNat + weightSum s l := by
  rw [weightSum, List.map_cons, List.sum_cons, weightSum]

theorem weightSum_singleton (s : State) (i : NodeIdx) : weightSum s [i] = (weightOf s i).toNat := by
  rw [weightSum_cons]
  rfl

theorem weightSum_congr {s t : State} {l : List NodeIdx} (h : ∀ i ∈ l, weightOf t i = weightOf s i) :
    weightSum t l = weightSum s l :=
  congrArg List.sum (List.map_congr_left fun i hi => by rw [h i hi])

/-- MERGE and ROOT conserve weight: the queue's weights add up to ORIG_COUNT, so no sum of two of them wraps (R179). -/
theorem weights_joinEffect {s t : State} (hp : queueing s.phase = true) (hs : TreeShaped s)
    (hw : WeightsConserved s) (h : JoinEffect s t) : WeightsConserved t := by
  obtain ⟨hqueue, hbelow, -⟩ := hs
  obtain ⟨hold, hsum, -⟩ := hw
  have hsum : weightSum s (queue s) = s.origCount.toNat := hsum hp
  have halloc : ∀ {i l}, (queue s).Perm l → i ∈ l → i.val < s.nodeCnt.val := fun hl hi =>
    hqueue _ ((mem_queue s _).1 (hl.mem_iff.2 hi))
  cases h with
  | empty hq =>
    rw [hq] at hsum
    exact ⟨hold, fun h => (by cases h), fun _ => hsum⟩
  | @leaf r p c hq hl hpv hc =>
    rw [hq, weightSum_singleton] at hsum
    have hr : r.val < p.val := hpv ▸ halloc (.of_eq hq) (List.mem_singleton_self r)
    refine ⟨fun i hi => weightIsSum_set rfl (fun j hj => hbelow j (hpv ▸ hj)) (by simpa [childrenBelow] using hr)
      (fun j hj => hold j (hpv ▸ hj)) (fun w l r' he => ?_) (by rw [hpv, ← hc]; exact hi), fun h => (by cases h),
      fun _ => ?_⟩
    · cases he
      rfl
    · rw [← hsum, refWeight, weightOf, node_of_set_at (s := s) rfl]
      rfl
  | @internal r hq hl =>
    rw [hq, weightSum_singleton] at hsum
    exact ⟨hold, fun h => (by cases h), fun _ => hsum⟩
  | @merge a b p c q rest hbefore hafter hpv hc =>
    have hab : (weightOf s a).toNat + ((weightOf s b).toNat + weightSum s rest) = s.origCount.toNat := by
      rw [← hsum, weightSum_perm hbefore, weightSum_cons, weightSum_cons]
    have hnowrap : (weightOf s a + weightOf s b).toNat = (weightOf s a).toNat + (weightOf s b).toNat := by
      have := s.origCount.isLt
      exact BitVec.toNat_add_of_lt (by omega)
    have ha : a.val < p.val := hpv ▸ halloc hbefore (by simp)
    have hb : b.val < p.val := hpv ▸ halloc hbefore (by simp)
    refine ⟨fun i hi => weightIsSum_set rfl (fun j hj => hbelow j (hpv ▸ hj))
      (by simpa [childrenBelow] using ⟨hb, ha⟩) (fun j hj => hold j (hpv ▸ hj)) (fun w l r he => ?_)
      (by rw [hpv, ← hc]; exact hi), fun _ => ?_, fun h => ?_⟩
    · cases he
      rw [hnowrap, Nat.add_comm]
      rfl
    · have hrest : ∀ i ∈ rest, i.val < p.val := fun i hi => hpv ▸ halloc hbefore (by simp [hi])
      refine (weightSum_perm hafter).trans ?_
      rw [weightSum_cons, weightSum_congr fun i hi => weightOf_set_below (s := s) rfl (hrest i hi), weightOf,
        node_of_set_at (s := s) rfl, nodeWeight, hnowrap, ← hab, Nat.add_assoc]
    · cases h

/-- The queue's trees in any order: their leaves' symbols are the present ones. -/
theorem leaves_perm {s : State} {l k : List NodeIdx} (h : l.Perm k) :
    ((l.flatMap (leavesOf s)).map LeafPath.sym).Perm ((k.flatMap (leavesOf s)).map LeafPath.sym) :=
  (h.flatMap_right _).map _

/-- ROOT's tree: the leaves of the one queued node, below the synthetic root where that node is a leaf (R182). -/
theorem rootForest_of_leaves {s t : State} {r : NodeIdx} {b : Bool} (hfreq : t.freq = s.freq)
    (hforest : QueueForest s) (hq : queue s = [r])
    (htree : treeLeaves t = some (if b then (leavesOf s r).map (LeafPath.under false) else leavesOf s r))
    (hpath : b = false → ∀ p ∈ leavesOf s r, p.path ≠ []) : RootForest t := by
  obtain ⟨-, hperm, hweight⟩ := hforest
  rw [hq, List.flatMap_singleton] at hperm
  have hweight := hweight r (by rw [hq]; exact List.mem_singleton_self r)
  rw [RootForest, rootLeaves, htree, present_congr hfreq, Option.getD_some]
  refine ⟨rfl, ?_, fun p hp => ?_⟩
  · cases b with
    | true => rw [if_pos rfl, map_sym_under]; exact hperm
    | false => exact hperm
  · rw [freqOf_congr hfreq]
    cases b with
    | true =>
      obtain ⟨q, hq, rfl⟩ := List.mem_map.1 hp
      exact ⟨hweight q hq, by simp [LeafPath.under]⟩
    | false => exact ⟨hweight p hp, hpath rfl p hp⟩

/-- MERGE keeps the forest: the new tree's leaves are those of the two it joins, one edge further down (R179, R197). -/
theorem queueForest_merge {s t : State} {a b p : NodeIdx} {w : Word} {rest : List NodeIdx}
    (hnode : t.node = s.node.set p.val (.internal w (some b) (some a)) p.isLt) (hfreq : t.freq = s.freq)
    (hbelow : ∀ i : NodeIdx, i.val < p.val → childrenBelow i.val s.node[i] = true)
    (hold : ∀ i ∈ a :: b :: rest, i.val < p.val) (hforest : QueueForest s)
    (hbefore : (queue s).Perm (a :: b :: rest)) (hafter : (queue t).Perm (p :: rest)) : QueueForest t := by
  obtain ⟨htree, hperm, hweight⟩ := hforest
  have htree : ∀ i ∈ a :: b :: rest, leafPaths (leavesOf s i).length s.node i = some (leavesOf s i) :=
    fun i hi => htree i (hbefore.mem_iff.2 hi)
  have hweight : ∀ i ∈ a :: b :: rest, ∀ q ∈ leavesOf s i, q.weight = freqOf s q.sym :=
    fun i hi => hweight i (hbefore.mem_iff.2 hi)
  have hperm : (((a :: b :: rest).flatMap (leavesOf s)).map LeafPath.sym).Perm (present s) :=
    (leaves_perm hbefore.symm).trans hperm
  have hkept : ∀ i ∈ a :: b :: rest, leavesOf t i = leavesOf s i :=
    fun i hi => leavesOf_set_below hnode hbelow (hold i hi)
  have ha : a ∈ a :: b :: rest := by simp
  have hb : b ∈ a :: b :: rest := by simp
  have hrest : ∀ i ∈ rest, i ∈ a :: b :: rest := fun i hi => by simp [hi]
  have hsize : (leavesOf s a).length + (leavesOf s b).length ≤ 256 := by
    have hlen := hperm.length_eq
    have hle := present_length_le s
    rw [List.flatMap_cons, List.flatMap_cons, List.map_append, List.map_append, List.length_append, List.length_append,
      List.length_map, List.length_map] at hlen
    omega
  have hjoin : leafPaths ((leavesOf s a).length + (leavesOf s b).length) t.node p =
      some ((leavesOf s b).map (LeafPath.under false) ++ (leavesOf s a).map (LeafPath.under true)) := by
    have hpa := leafPaths_level_pos (htree a ha)
    have hpb := leafPaths_level_pos (htree b hb)
    have hla := (leafPaths_set_below hnode hbelow (hold a ha) _).trans (htree a ha)
    have hlb := (leafPaths_set_below hnode hbelow (hold b hb) _).trans (htree b hb)
    obtain ⟨n, hn⟩ := Nat.exists_eq_add_of_lt (Nat.add_pos_left hpa (leavesOf s b).length)
    rw [hn, Nat.zero_add]
    exact leafPaths_pair (node_of_set_at hnode) (leafPaths_mono hla (by omega)) (leafPaths_mono hlb (by omega))
  have hnew := leavesOf_eq hjoin hsize
  refine ⟨fun i hi => ?_, ?_, fun i hi q hq => ?_⟩
  · rcases List.mem_cons.1 (hafter.mem_iff.1 hi) with rfl | hi
    · rw [hnew, List.length_append, List.length_map, List.length_map, Nat.add_comm]
      exact hjoin
    · rw [hkept i (hrest i hi), leafPaths_set_below hnode hbelow (hold i (hrest i hi))]
      exact htree i (hrest i hi)
  · rw [present_congr hfreq]
    refine (leaves_perm hafter).trans (List.Perm.trans ?_ hperm)
    rw [List.flatMap_cons, hnew, List.flatMap_congr fun i hi => hkept i (hrest i hi), List.flatMap_cons,
      List.flatMap_cons, ← List.append_assoc, List.map_append, List.map_append, List.map_append, List.map_append,
      map_sym_under, map_sym_under]
    exact List.perm_append_comm.append_right _
  · rw [freqOf_congr hfreq]
    rcases List.mem_cons.1 (hafter.mem_iff.1 hi) with rfl | hi
    · rw [hnew] at hq
      rcases List.mem_append.1 hq with hq | hq <;> obtain ⟨u, hu, rfl⟩ := List.mem_map.1 hq
      · exact hweight b hb u hu
      · exact hweight a ha u hu
    · rw [hkept i (hrest i hi)] at hq
      exact hweight i (hrest i hi) q hq

/-- MERGE and ROOT keep the forest. -/
theorem forest_joinEffect {s t : State} (hp : queueing s.phase = true) (hs : TreeShaped s) (hf : ForestKnown s)
    (h : JoinEffect s t) : ForestKnown t := by
  obtain ⟨hqueue, hbelow, -⟩ := hs
  have hforest := hf.1 hp
  cases h with
  | empty hq =>
    obtain ⟨-, hperm, -⟩ := hforest
    rw [hq] at hperm
    exact ⟨fun h => (by cases h), fun _ => ⟨rfl, hperm, fun p hp => (by cases hp)⟩⟩
  | @leaf r p c hq hl hpv hc =>
    obtain ⟨x, w, hx⟩ := isLeaf_eq_true.1 hl
    have hr : r.val < p.val := hpv ▸ hqueue r ((mem_queue s r).1 (by simp [hq]))
    have hnode : ∀ i : NodeIdx, i.val < p.val → childrenBelow i.val s.node[i] = true := fun i hi => hbelow i (hpv ▸ hi)
    refine ⟨fun h => (by cases h),
      fun _ => rootForest_of_leaves (s := s) (b := true) rfl hforest hq ?_ fun h => by cases h⟩
    have hleaf := (leafPaths_set p.isLt (.internal (weightOf s r) (some r) none) hnode 255 r hr).trans
      (leafPaths_leaf 254 hx)
    rw [leavesOf_leaf hx]
    exact leafPaths_single (getElem_set_at _ _ _) hleaf
  | @internal r hq hl =>
    obtain ⟨w, l, r', hx⟩ := isLeaf_eq_false.1 hl
    have htree := hforest.1 r (by simp [hq])
    have hsize : (leavesOf s r).length ≤ 256 := by
      have hlen := hforest.2.1.length_eq
      rw [hq, List.flatMap_singleton, List.length_map] at hlen
      exact hlen.trans_le (present_length_le s)
    exact ⟨fun h => (by cases h), fun _ => rootForest_of_leaves (s := s) (b := false) rfl hforest hq
      (leafPaths_mono htree hsize) fun _ => path_ne_nil_of_internal hx htree⟩
  | @merge a b p c q rest hbefore hafter hpv hc =>
    exact ⟨fun _ => queueForest_merge rfl rfl (fun i hi => hbelow i (hpv ▸ hi))
      (fun i hi => hpv ▸ hqueue i ((mem_queue s i).1 (hbefore.mem_iff.2 hi))) hforest hbefore hafter,
      fun h => (by cases h)⟩

/-! #### The layout of the node memory (R196, R200) -/

theorem treeNodes_of_two_le {n : Nat} (h : 2 ≤ n) : treeNodes n = 2 * n - 1 := by
  obtain ⟨k, rfl⟩ := Nat.exists_eq_add_of_le' h
  simp only [treeNodes]
  omega

/-- The leaves are the present symbols in order, and every node after them is internal. -/
def LeavesFirst (s : State) : Prop :=
  (∀ i : NodeIdx, i.val < s.nodeCnt.val → isLeaf s i = decide (i.val < (present s).length)) ∧
    (∀ i : NodeIdx, i.val < s.nodeCnt.val → ∀ x ∈ (present s)[i.val]?, s.node[i] = .leaf x (freqOf s x))

/-- A new internal node after the leaves keeps the layout. -/
theorem leavesFirst_set {s t : State} {p : NodeIdx} {w : Word} {l r : NodeRef} (hs : LeavesFirst s)
    (hnode : t.node = s.node.set p.val (.internal w l r) p.isLt) (hfreq : t.freq = s.freq)
    (hp : p.val = s.nodeCnt.val) (hc : t.nodeCnt.val = s.nodeCnt.val + 1) (hle : (present s).length ≤ p.val) :
    LeavesFirst t := by
  obtain ⟨hkind, hleaf⟩ := hs
  rw [LeavesFirst, present_congr hfreq, hc, ← hp]
  refine ⟨fun i hi => ?_, fun i hi x hx => ?_⟩ <;> rcases Nat.lt_succ_iff_lt_or_eq.1 hi with h | h
  · rw [isLeaf_set_below hnode h]
    exact hkind i (hp ▸ h)
  · obtain rfl : i = p := Fin.ext h
    rw [decide_eq_false (by omega)]
    exact isLeaf_eq_false.2 ⟨_, _, _, node_of_set_at hnode⟩
  · rw [node_of_set_below hnode h, freqOf_congr hfreq]
    exact hleaf i (hp ▸ h) x hx
  · rw [List.getElem?_eq_none (by omega)] at hx
    cases hx

/-- While BUILD merges, what the layout says: the count, and either only leaves or a queued internal node last. -/
theorem nodesCounted_queueing {s : State} (hp : queueing s.phase = true) (hn : NodesCounted s) :
    s.nodeCnt.val + (queue s).length = 2 * (present s).length ∧ LeavesFirst s ∧
      (s.nodeCnt.val = (present s).length ∨
        ∃ i : NodeIdx, i.val + 1 = s.nodeCnt.val ∧ i ∈ queue s ∧ isLeaf s i = false ∧ (present s).length ≤ i.val) := by
  obtain ⟨hcount, hseeded, hmerging, -, hlayout⟩ := hn
  have hne : s.phase ≠ .empty := fun h => by rw [h] at hp; cases hp
  refine ⟨hcount hp, hlayout hne, ?_⟩
  cases hph : s.phase with
  | seeded => exact .inl (hseeded hph)
  | merging =>
    obtain ⟨hpos, hlast⟩ := hmerging hph
    have hlt := s.nodeCnt.isLt
    have hidx : s.nodeCnt.val - 1 < 511 := by omega
    obtain ⟨hin, hint⟩ := hlast ⟨s.nodeCnt.val - 1, hidx⟩ (Nat.succ_pred_eq_of_ne_zero hpos)
    have hkind := (hlayout hne).1 ⟨s.nodeCnt.val - 1, hidx⟩ (Nat.pred_lt hpos)
    rw [hint, eq_comm, decide_eq_false_iff_not, Nat.not_lt] at hkind
    exact .inr ⟨⟨s.nodeCnt.val - 1, hidx⟩, Nat.succ_pred_eq_of_ne_zero hpos, (mem_queue s _).2 hin, hint, hkind⟩
  | empty | rooted | indexed => rw [hph] at hp; cases hp

/-- ROOT leaves the node count and the root that the number of symbols gives (R196). -/
theorem nodesCounted_of_rooted {t : State} (hp : t.phase = .rooted)
    (hcount : t.nodeCnt.val = treeNodes (present t).length)
    (hroot : t.root.map Fin.val = if present t = [] then none else some (treeNodes (present t).length - 1))
    (hlayout : LeavesFirst t) : NodesCounted t := by
  refine ⟨fun h => ?_, fun h => ?_, fun h => ?_, fun _ => ⟨hcount, hroot⟩, fun _ => hlayout⟩ <;>
    rw [hp] at h <;> cases h

/-- MERGE and ROOT keep the layout. -/
theorem nodes_joinEffect {s t : State} (hp : queueing s.phase = true) (hs : TreeShaped s) (hn : NodesCounted s)
    (h : JoinEffect s t) : NodesCounted t := by
  obtain ⟨hcount, hlayout, hlast⟩ := nodesCounted_queueing hp hn
  have hle : (present s).length ≤ s.nodeCnt.val := by
    rcases hlast with h | ⟨i, hi, -, -, h⟩ <;> omega
  cases h with
  | empty hq =>
    rw [hq, List.length_nil] at hcount
    have hzero : (present s).length = 0 := by
      rcases hlast with h | ⟨i, -, hi, -⟩
      · omega
      · rw [hq] at hi
        cases hi
    refine nodesCounted_of_rooted rfl ?_ (if_pos (List.length_eq_zero_iff.1 hzero)).symm hlayout
    show s.nodeCnt.val = treeNodes (present s).length
    rw [hzero]
    exact hcount.trans (by rw [hzero]; rfl)
  | @leaf r p c hq hl hpv hc =>
    rw [hq, List.length_singleton] at hcount
    have hone : (present s).length = 1 := by
      rcases hlast with h | ⟨i, -, hi, hint, -⟩
      · omega
      · rw [hq, List.mem_singleton] at hi
        rw [hi, hl] at hint
        cases hint
    have hpresent : present s ≠ [] := fun h => by rw [h] at hone; cases hone
    refine nodesCounted_of_rooted rfl ?_ ?_ (leavesFirst_set (s := s) hlayout rfl rfl hpv hc (by omega))
    · show c.val = treeNodes (present s).length
      rw [hone, hc]
      show s.nodeCnt.val + 1 = 2
      omega
    · refine Eq.trans ?_ (if_neg hpresent).symm
      refine congrArg some (show p.val = treeNodes (present s).length - 1 from ?_)
      rw [hone, hpv]
      show s.nodeCnt.val = 1
      omega
  | @internal r hq hl =>
    rw [hq, List.length_singleton] at hcount
    obtain ⟨hr, hlast⟩ : r.val + 1 = s.nodeCnt.val ∧ (present s).length ≤ r.val := by
      rcases hlast with h | ⟨i, hi, hiq, -, hle⟩
      · have hlt := hs.1 r ((mem_queue s r).1 (by simp [hq]))
        have hkind := hlayout.1 r hlt
        rw [hl, eq_comm, decide_eq_false_iff_not] at hkind
        omega
      · rw [hq, List.mem_singleton] at hiq
        rw [← hiq]
        exact ⟨hi, hle⟩
    have htwo : 2 ≤ (present s).length := by omega
    have hpresent : present s ≠ [] := fun h => by rw [h] at htwo; cases htwo
    refine nodesCounted_of_rooted rfl ?_ ?_ hlayout
    · show s.nodeCnt.val = treeNodes (present s).length
      rw [treeNodes_of_two_le htwo]
      omega
    · refine Eq.trans ?_ (if_neg hpresent).symm
      refine congrArg some (show r.val = treeNodes (present s).length - 1 from ?_)
      rw [treeNodes_of_two_le htwo]
      omega
  | @merge a b p c q rest hbefore hafter hpv hc =>
    rw [hbefore.length_eq, List.length_cons, List.length_cons] at hcount
    refine ⟨fun _ => ?_, fun h => (by cases h), fun _ => ⟨?_, fun i hi => ?_⟩, fun h => (by cases h),
      fun _ => leavesFirst_set (s := s) hlayout rfl rfl hpv hc (by omega)⟩
    · show c.val + (queue { s with inq := q }).length = 2 * (present s).length
      rw [hafter.length_eq, List.length_cons]
      omega
    · show c.val ≠ 0
      omega
    · have hi : i.val + 1 = c.val := hi
      obtain rfl : i = p := Fin.ext (by omega)
      exact ⟨(mem_queue { s with inq := q } i).1 (hafter.mem_iff.2 (List.mem_cons_self ..)),
        isLeaf_eq_false.2 ⟨_, _, _, getElem_set_at _ _ _⟩⟩

theorem phase_of_joinEffect {s t : State} (h : JoinEffect s t) : t.phase ≠ .indexed := by
  cases h <;> exact fun h => by cases h

/-- MERGE and ROOT keep the promises about the tree. -/
theorem treeAgrees_joinEffect {s t : State} (hp : queueing s.phase = true) (hs : TreeShaped s) (ha : TreeAgrees s)
    (h : JoinEffect s t) : TreeAgrees t := by
  obtain ⟨hw, hf, hn, -⟩ := ha
  exact ⟨weights_joinEffect hp hs hw h, forest_joinEffect hp hs hf h, nodes_joinEffect hp hs hn h,
    fun hi => absurd hi (phase_of_joinEffect h)⟩

/-! #### INDEX keeps the promises -/

/-- Leaves that are the frequency entries, at most 255 edges deep: their weighted lengths add up without wrapping
(R199). -/
theorem sum_leaves_lt {s : State} {ls : List LeafPath} (ht : TallyConserved s)
    (hperm : (ls.map LeafPath.sym).Perm (present s)) (hweight : ∀ p ∈ ls, p.weight = freqOf s p.sym)
    (hlen : ∀ p ∈ ls, p.path.length ≤ 255) :
    (ls.map (fun p => p.weight.toNat * p.path.length)).sum < 2 ^ 64 := by
  have hlt := s.origCount.isLt
  calc (ls.map (fun p => p.weight.toNat * p.path.length)).sum
      ≤ (ls.map (fun p => (freqOf s p.sym).toNat * 255)).sum :=
        List.sum_le_sum fun p hp => by rw [hweight p hp]; exact Nat.mul_le_mul_left _ (hlen p hp)
    _ = ((ls.map LeafPath.sym).map (fun x => (freqOf s x).toNat)).sum * 255 := by
        rw [List.sum_map_mul_right, List.map_map]
        rfl
    _ = s.origCount.toNat * 255 := by rw [(hperm.map _).sum_eq, sum_present, ht]
    _ < 2 ^ 64 := by omega

/-- INDEX's code book is the tree's (R183). -/
theorem treeAgrees_booked {s : State} {ls : List LeafPath} (hp : s.phase = .rooted) (hl : treeLeaves s = some ls)
    (ht : TallyConserved s) (ha : TreeAgrees s) :
    TreeAgrees (finish { restWalk (ls.foldl recordLeaf (emptyBook s)) with phase := .indexed }) := by
  obtain ⟨⟨hsum, -, hweight⟩, ⟨-, hforest⟩, ⟨-, -, -, hcount, hlayout⟩, -⟩ := ha
  have hroot : hasRoot s.phase = true := by rw [hp]; rfl
  have hleaves : rootLeaves s = ls := by rw [rootLeaves, hl]; rfl
  obtain ⟨-, hperm, hentry⟩ := hforest hroot
  rw [hleaves] at hperm hentry
  obtain ⟨t, htl, hbook, habsent, hbits, hframe⟩ :=
    buildDerivesTheCodeBook s ls hp hl (hperm.nodup_iff.2 (present_nodup s))
  obtain rfl := Host.Outcome.next.inj ((execBuild_rooted hp hl).symm.trans htl)
  have hlt := sum_leaves_lt ht hperm (fun p hp => (hentry p hp).1) (treeLeaves_path_le hl)
  have hleaves' : rootLeaves (finish { restWalk (ls.foldl recordLeaf (emptyBook s)) with phase := .indexed }) = ls := by
    rw [hframe]
    exact hleaves
  refine ⟨?_, ?_, ?_, fun _ => ⟨fun p hpl => ?_, fun x _ hx => ?_, ?_⟩⟩
  · rw [hframe]
    exact ⟨hsum, fun h => (by cases h), fun _ => hweight hroot⟩
  · rw [hframe]
    exact ⟨fun h => (by cases h), fun _ => hforest hroot⟩
  · rw [hframe]
    exact ⟨fun h => (by cases h), fun h => (by cases h), fun h => (by cases h), fun _ => hcount hroot,
      fun _ => hlayout (by rw [hp]; decide)⟩
  · rw [hleaves'] at hpl
    obtain ⟨-, hcw, hcode⟩ := hbook p hpl
    exact ⟨hcode, hcw⟩
  · rw [hleaves'] at hx
    exact (habsent x hx).1
  · rw [hbits, hleaves', BitVec.toNat_ofNat, Nat.mod_eq_of_lt hlt]

/-! ### Safe states -/

/-- What `Safe` promises beside the sequencer. -/
abbrev Sound (s : State) : Prop := TallyConserved s ∧ Shaped s ∧ TreeAgrees s

theorem safe_iff {s : State} : Safe s ↔ SequencerSafe s ∧ Sound s := by
  constructor
  · rintro ⟨htally, hseq, hquiet, hshape, hagrees⟩
    exact ⟨hseq, htally, ⟨hquiet, hshape⟩, hagrees⟩
  · rintro ⟨hseq, htally, ⟨hquiet, hshape⟩, hagrees⟩
    exact ⟨htally, hseq, hquiet, hshape, hagrees⟩

/-- In EMPTY the tally and what is empty there are all that `Safe` promises. -/
theorem sound_of_empty {s : State} (hp : s.phase = .empty) (ht : TallyConserved s) (hq : QuietOutsideBuild s) :
    Sound s :=
  ⟨ht, ⟨hq, treeShaped_of_empty hp hq⟩, treeAgrees_of_empty hp (hq.1 hp)⟩

theorem sound_hostReset (n : Nat) (s : State) : Sound (hostReset n s) :=
  sound_of_empty (hostReset_phase n s) (tallyConserved_hostReset n s) (quiet_hostReset n s)

/-- Every command keeps the promises about the nodes and the code book. -/
theorem treeAgrees_command {i : Instr} {s t : State} (h : CommandEffect s i t) (hs : Sound s) : TreeAgrees t := by
  obtain ⟨ht, ⟨hquiet, htree⟩, hagrees⟩ := hs
  have ⟨halloc, _⟩ := htree
  cases h with
  | refused | shown | encoded | flushed => exact hagrees
  | cleared => exact treeAgrees_of_empty (clearState_phase s) (congrArg Fin.val (clearState_nodeCnt s))
  | counted x hp | discarded hp => exact treeAgrees_of_empty hp (hquiet.1 hp)
  | seeded hp => exact treeAgrees_seedStep hp ht hquiet
  | merged hp h => exact treeAgrees_joinEffect hp htree hagrees (joinEffect_of_mergeOrRoot halloc h)
  | booked hp hl => exact treeAgrees_booked hp hl ht hagrees
  | decoded b =>
    obtain ⟨_, _, _, _, e⟩ := decodeBit_frame b s
    rw [e]
    exact hagrees

theorem sound_command (i : Instr) (s t : State) (h : CommandEffect s i t) (hs : Sound s) : Sound t :=
  have ⟨ht, hshaped, _⟩ := hs
  ⟨tallyConserved_command i s t h ht, shaped_command i s t h hshaped, treeAgrees_command h hs⟩

/-- Settles O52: the sequencer by its own argument, every other promise command by command. -/
theorem stepKeepsSafe : Obligations.StepKeepsSafe := by
  intro s t hs h
  obtain ⟨hseq, hsound⟩ := safe_iff.1 hs
  exact safe_iff.2 ⟨sequencerSafe_step hseq h,
    step_keeps (P := Sound) (fun _ => Iff.rfl) sound_hostReset sound_command hsound h⟩

/-- Settles O48: after reset PHASE is EMPTY, the tally is empty and so is all that EMPTY leaves empty. -/
theorem resetIsSafe : Obligations.ResetIsSafe :=
  safe_iff.2 ⟨fun h => (by cases h), sound_of_empty rfl (tallyConserved_of_zero rfl rfl)
    ⟨fun _ => rfl, fun _ => rfl, fun _ => rfl, fun _ => ⟨rfl, rfl, rfl, rfl⟩⟩⟩

/-! ### The codec commands in INDEXED (R212, R221, R229, R244) -/

theorem codecGate_of_indexed {s : State} (hp : s.phase = .indexed) (o : Host.Outcome State Fault Refusal) :
    codecGate s o = o := by
  simp [codecGate, hp]

theorem execSymbolOf_indexed {s : State} (hp : s.phase = .indexed) :
    exec .symbolOf s = .next (finish (showSymbol (symbolAt s.node s.root (inputCodeword s)) s)) :=
  codecGate_of_indexed hp _

/-- Settles O38: in INDEXED the gate admits the walk's return to the root. -/
theorem decodeFlushRestsTheWalk : Obligations.DecodeFlushRestsTheWalk :=
  ⟨rfl, fun _ hp => codecGate_of_indexed hp _⟩

/-- The i-th bit of a right-aligned string of L bits is bit L - i (R44, R222). -/
theorem codeBits_getElem? {w : Nat} {len i : Nat} (v : BitVec w) (h1 : 1 ≤ i) (hi : i ≤ len) :
    (codeBits len v)[i - 1]? = some (v.getLsbD (len - i)) := by
  have hlt : i - 1 < len := by omega
  rw [codeBits, List.getElem?_map, List.getElem?_range hlt, Option.map_some]
  congr 2
  omega

/-- Settles O19, from the layout of a bit string and of a vector over words. -/
theorem inputCodewordLayout : Obligations.InputCodewordLayout := fun s =>
  ⟨codeBits_length _ _, fun _ h1 hi => codeBits_getElem? _ h1 hi, fun k _ hj => vecOfWords_getLsbD s.cwin k hj⟩

/-! ### The tree's leaves and the code book (R66, R186) -/

/-- The bits of a leaf's path lead from ROOT to it. -/
theorem symbolAt_rootLeaves {s : State} {p : LeafPath} (hp : p ∈ rootLeaves s) :
    symbolAt s.node s.root p.path = some p.sym := by
  unfold rootLeaves treeLeaves at hp
  cases hr : s.root with
  | none =>
    rw [hr] at hp
    cases hp
  | some r =>
    rw [hr] at hp
    cases hl : leafPaths 256 s.node r with
    | none =>
      simp only [hl] at hp
      cases hp
    | some ls =>
      simp only [hl] at hp
      exact symbolAt_path hl p hp

/-- A symbol with a codeword has a leaf, whose path the codeword is. -/
theorem leaf_of_cbLen {s : State} {x : Symbol} (hb : BookAgrees s) (hp : s.phase = .indexed) (hx : cbLenOf s x ≠ 0) :
    ∃ p ∈ rootLeaves s, p.sym = x ∧ p.path = bookCodeword s x := by
  obtain ⟨hbook, habsent, -⟩ := hb hp
  have hmem : x ∈ (rootLeaves s).map LeafPath.sym := by
    by_contra h
    exact hx (habsent x (mem_allSymbols x) h)
  obtain ⟨p, hpl, rfl⟩ := List.mem_map.1 hmem
  exact ⟨p, hpl, rfl, (hbook p hpl).1.symm⟩

/-- A codeword leads from ROOT to its symbol's leaf. -/
theorem symbolAt_bookCodeword {s : State} {x : Symbol} (hb : BookAgrees s) (hp : s.phase = .indexed)
    (hx : cbLenOf s x ≠ 0) : symbolAt s.node s.root (bookCodeword s x) = some x := by
  obtain ⟨p, hpl, rfl, hpath⟩ := leaf_of_cbLen hb hp hx
  rw [← hpath]
  exact symbolAt_rootLeaves hpl

/-- The symbols that occur are those with a codeword: each leaf is at the end of a path of one edge at least. -/
theorem freqOf_ne_zero_iff {s : State} (hb : BookAgrees s) (hf : RootForest s) (hp : s.phase = .indexed) (x : Symbol) :
    freqOf s x ≠ 0 ↔ cbLenOf s x ≠ 0 := by
  obtain ⟨-, hperm, hentry⟩ := hf
  rw [← mem_present, ← hperm.mem_iff]
  constructor
  · intro hx h
    obtain ⟨p, hpl, rfl⟩ := List.mem_map.1 hx
    have hlen := cbLenOf_of_bookAgrees hb hp p hpl
    rw [h] at hlen
    exact (hentry p hpl).2 (List.length_eq_zero_iff.1 hlen.symm)
  · intro hx
    obtain ⟨p, hpl, rfl, -⟩ := leaf_of_cbLen hb hp hx
    exact List.mem_map_of_mem hpl

/-- Settles O56, from the leaf the codeword leads to. -/
theorem symbolOfItsCodeword : Obligations.SymbolOfItsCodeword := by
  rintro s x ⟨-, -, -, -, -, ⟨-, hforest⟩, -, hbook⟩ hp
  refine ⟨freqOf_ne_zero_iff hbook (hforest (by rw [hp]; rfl)) hp x, fun hx _ hin => ⟨_, execSymbolOf_indexed hp, ?_⟩⟩
  rw [hin, symbolAt_bookCodeword hbook hp hx]
  rfl

/-- A walk that has come to a leaf comes to no other leaf by more bits. -/
theorem symbolAt_append {node : Vector NodeRec 511} {c : NodeRef} {bits more : List Bool} {x y : Symbol}
    (hx : symbolAt node c bits = some x) (hy : symbolAt node c (bits ++ more) = some y) : x = y := by
  cases c with
  | none => cases bits <;> cases hx
  | some i =>
    induction bits generalizing i with
    | nil =>
      cases hi : node[i] with
      | leaf z w => cases more <;> simp_all [symbolAt]
      | internal w l r => simp [symbolAt, hi] at hx
    | cons b bits ih =>
      cases hi : node[i] with
      | leaf z w => simp [symbolAt, hi] at hx
      | internal w l r =>
        simp only [List.cons_append, symbolAt, hi] at hx hy
        cases hc : child b l r with
        | none =>
          rw [hc] at hx
          cases bits <;> cases hx
        | some j =>
          rw [hc] at hx hy
          exact ih j hx hy

/-- Settles O57: of two codewords, one continued into the other would lead to two symbols. -/
theorem codeIsPrefixFree : Obligations.CodeIsPrefixFree := by
  rintro s x y ⟨-, -, -, -, -, -, -, hbook⟩ hp hne hx hy ⟨more, hmore⟩
  have hlead := symbolAt_bookCodeword hbook hp hy
  rw [← hmore] at hlead
  exact hne (symbolAt_append (symbolAt_bookCodeword hbook hp hx) hlead)

/-! ### The codeword shown (R46, R212, R221) -/

/-- What RES_CW_VEC receives of a symbol. -/
def shownCodeword (s : State) (x : Symbol) : BitVec 256 := if cbLenOf s x = 0 then 0 else (cbCwOf s x).setWidth 256

theorem resCwVec_showCodeword (x : Symbol) (s : State) : resCwVec (showCodeword x s) = shownCodeword s x :=
  vecOfWords_wordsOfVec _

/-- In a safe state the shown codeword is zero from position L on: CB_CW holds the value of a path of L bits (R60). -/
theorem shownCodeword_lt {s : State} {x : Symbol} (hs : Safe s) (hp : s.phase = .indexed) :
    (shownCodeword s x).toNat < 2 ^ (cbLenOf s x).toNat := by
  obtain ⟨-, -, -, -, -, -, -, hbook⟩ := hs
  unfold shownCodeword
  split
  · exact Nat.two_pow_pos _
  · rename_i hx
    obtain ⟨p, hpl, rfl, -⟩ := leaf_of_cbLen hbook hp hx
    rw [cbLenOf_of_bookAgrees hbook hp p hpl, ((hbook hp).1 p hpl).2]
    refine Nat.lt_of_le_of_lt ?_ (codeVal_lt p.path)
    rw [BitVec.toNat_setWidth, BitVec.toNat_ofNat]
    exact (Nat.mod_le _ _).trans (Nat.mod_le _ _)

theorem resLen_showCodeword (x : Symbol) (s : State) : (showCodeword x s).res.len.toNat = (cbLenOf s x).toNat := by
  have := (cbLenOf s x).isLt
  exact (BitVec.toNat_setWidth ..).trans (Nat.mod_eq_of_lt (by omega))

/-- Settles O34, from what the shown codeword is. -/
theorem codewordOfShowsTheEntry : Obligations.CodewordOfShowsTheEntry := fun x s hp =>
  ⟨finish (showCodeword x s), codecGate_of_indexed hp _, resLen_showCodeword x s, resCwVec_showCodeword x s,
    fun hs => (resCwVec_showCodeword x s).symm ▸ shownCodeword_lt hs hp, rfl⟩

/-- Settles O35: the emitted bits are the code book's, and the shown codeword is as CODEWORD_OF shows it. -/
theorem encodeSymEmitsTheCodeword : Obligations.EncodeSymEmitsTheCodeword := fun x s hp =>
  ⟨finish (emitEnc (bookCodeword s x) (showCodeword x s)), bookCodeword s x, codecGate_of_indexed hp _,
    resLen_showCodeword x s, resCwVec_showCodeword x s,
    fun hs => (resCwVec_showCodeword x s).symm ▸ shownCodeword_lt hs hp, codeBits_length _ _, fun i h1 hi => by
      rw [bookCodeword, codeBits_length] at hi ⊢
      exact codeBits_getElem? _ h1 hi, rfl⟩

/-! ### SYMBOL_OF (R228, R229, R230) -/

/-- From an internal node a bit leads to the child it names. -/
theorem walkReaches_cons {node : Vector NodeRec 511} {i : NodeIdx} {w : Word} {l r e : NodeRef} {b : Bool}
    {rest : List Bool} (h : node[i] = .internal w l r) :
    WalkReaches node (some i) (b :: rest) e ↔ WalkReaches node (child b l r) rest e := by
  constructor
  · intro hw
    cases hw with
    | left h' next | right h' next =>
      cases h.symm.trans h'
      exact next
  · intro hw
    cases b with
    | false => exact .left h hw
    | true => exact .right h hw

/-- The model's walk finds a symbol exactly where the bits lead to a leaf that carries it. -/
theorem symbolAt_eq_some_iff {node : Vector NodeRec 511} {c : NodeRef} {bits : List Bool} {x : Symbol} :
    symbolAt node c bits = some x ↔
      ∃ (i : NodeIdx) (w : Word), WalkReaches node c bits (some i) ∧ node[i] = .leaf x w := by
  induction bits generalizing c with
  | nil =>
    constructor
    · intro h
      cases c with
      | none => cases h
      | some i =>
        cases hi : node[i] with
        | leaf y w =>
          simp only [symbolAt, hi, Option.some.injEq] at h
          exact ⟨i, w, .here _, by rw [hi, h]⟩
        | internal w l r => simp [symbolAt, hi] at h
    · rintro ⟨i, w, hw, hi⟩
      cases hw
      simp [symbolAt, hi]
  | cons b bits ih =>
    cases c with
    | none =>
      constructor
      · intro h
        cases h
      · rintro ⟨i, w, hw, -⟩
        cases hw
    | some j =>
      cases hj : node[j] with
      | leaf y v =>
        constructor
        · intro h
          simp [symbolAt, hj] at h
        · rintro ⟨i, w, hw, -⟩
          cases hw with
          | left h' | right h' => cases hj.symm.trans h'
      | internal v l r =>
        simp only [walkReaches_cons hj, ← ih]
        simp [symbolAt, hj]

/-- Settles O36: the model's walk and the walk the bits describe agree. -/
theorem symbolOfWalksTheTree : Obligations.SymbolOfWalksTheTree := by
  intro s hp
  refine ⟨_, execSymbolOf_indexed hp, fun i x w hw hi => ?_, fun hno => ?_, rfl⟩
  · rw [symbolAt_eq_some_iff.2 ⟨i, w, hw, hi⟩]
    rfl
  · cases hsym : symbolAt s.node s.root (inputCodeword s) with
    | none => rfl
    | some x =>
      obtain ⟨i, w, hw, hi⟩ := symbolAt_eq_some_iff.1 hsym
      exact absurd hi (hno i x w hw)

/-! ### The register window (R31 to R52) -/

theorem readReg_of_not_res {r : HostReg} (h : isResReg r = false) (s : State) : readReg r s = regValue s r := by
  simp [readReg, h]

/-- Settles O12, from the register map and what a register holds. -/
theorem fixedRegistersRead : Obligations.FixedRegistersRead := by
  refine ⟨?_, fun off r h => ?_, fun s => ?_⟩
  · exact ⟨regAt_offset .id, regAt_offset .cmd, regAt_offset .status, regAt_offset .cwinLen,
      fun k => regAt_offset (.cwin k), regAt_offset .resSym, regAt_offset .resLen, fun k => regAt_offset (.resCw k),
      regAt_offset .resNode0, regAt_offset .resNode1, regAt_offset .resOrig, regAt_offset .resCbitsLo,
      regAt_offset .resCbitsHi, regAt_offset .resCsizeLo, regAt_offset .resCsizeHi, regAt_offset .resTree,
      regAt_offset (.reserved 0), regAt_offset (.reserved 1)⟩
  · have hoff : r.offset = off := by simpa using List.find?_some (p := fun r : HostReg => r.offset == off) h
    exact ⟨hoff, hoff ▸ select_offset r⟩
  · refine ⟨readReg_of_not_res rfl s, readReg_of_not_res rfl s, fun k => readReg_of_not_res rfl s, ?_,
      fun k => readReg_of_not_res rfl s, readReg_of_not_res rfl s, fun hb => ?_⟩
    · have := s.cwinLen.isLt
      rw [readReg_of_not_res rfl]
      exact (BitVec.toNat_setWidth ..).trans (Nat.mod_eq_of_lt (by omega))
    · exact ⟨readReg_idle _ hb, readReg_idle _ hb, fun k => readReg_idle _ hb, readReg_idle _ hb, readReg_idle _ hb,
        readReg_idle _ hb, readReg_idle _ hb, readReg_idle _ hb, readReg_idle _ hb, readReg_idle _ hb,
        readReg_idle _ hb⟩

/-- Settles O13, field by field of the STATUS word. -/
theorem statusFields : Obligations.StatusFields := by
  refine ⟨⟨rfl, rfl, rfl, rfl, rfl⟩, ⟨rfl, rfl, rfl, rfl, rfl, rfl, rfl⟩, fun s => ⟨?_, ?_, ?_, ?_, ?_, ?_, ?_⟩⟩ <;>
    unfold statusWord
  · simp only [BitVec.getLsbD_append]
    simp
  · exact extractLsb'_append_middle _ _ _
  · rw [BitVec.extractLsb'_append_eq_of_le (by decide)]
    exact extractLsb'_append_middle _ _ _
  · simp only [BitVec.getLsbD_append]
    simp
  · simp only [BitVec.getLsbD_append]
    simp [decPend]
  · simp only [BitVec.getLsbD_append]
    simp [decDead]
  · rw [BitVec.extractLsb'_append_eq_of_le (by decide), BitVec.extractLsb'_append_eq_of_le (by decide),
      BitVec.extractLsb'_append_eq_of_le (by decide), BitVec.extractLsb'_append_eq_of_le (by decide),
      BitVec.extractLsb'_append_eq_of_le (by decide)]
    exact BitVec.extractLsb'_append_eq_left

/-! ### Host writes (R32, R35, R43, R44) -/

/-- With BUSY = 0 a `WR` line writes the register it names. -/
theorem step_wrLine {s : State} {r : HostReg} {v : Word} {rest : List HostLine} (hb : s.busy = false)
    (hh : s.host = wrLine r v :: rest) : step s = .next (hostWrite r v { s with host := rest }) := by
  obtain ⟨-, hidle⟩ := writesAreHeldWhileBusy.1 s _ _ v rest hh
  rw [(hidle hb).2, onSelected_offset]

/-- Settles O9: the write performed is CMD's. -/
theorem commandWriteLatches : Obligations.CommandWriteLatches := fun _ _ _ hb hh => step_wrLine hb hh

/-- A byte kept of a word is the word's low byte. -/
theorem setWidth_byte (v : Word) : (v.setWidth 8).setWidth 32 = v &&& 0xFF := by
  apply BitVec.eq_of_toNat_eq
  rw [BitVec.toNat_setWidth, BitVec.toNat_setWidth, BitVec.toNat_and]
  exact (Nat.mod_eq_of_lt (by omega)).trans (Nat.and_two_pow_sub_one_eq_mod _ 8).symm

/-- After a write of CWINk that word is the written one, and every other word stays (R44). -/
theorem regValue_hostWrite_cwin (s : State) (k j : Fin 8) (v : Word) :
    regValue (hostWrite (.cwin k) v s) (.cwin j) = if k = j then v else regValue s (.cwin j) := by
  simp [regValue, hostWrite, Vector.getElem_set, Fin.ext_iff]

/-- Settles O10, by which register is written and which is read after. -/
theorem inputWritesReachOneRegister : Obligations.InputWritesReachOneRegister := by
  intro s r v rest hb hr hh
  refine ⟨_, step_wrLine hb hh, fun q => ?_, ?_⟩
  · cases r with
    | cmd => exact absurd rfl hr
    | cwinLen =>
      cases q with
      | cwinLen => exact setWidth_byte v
      | _ => rfl
    | cwin k =>
      cases q with
      | cwin j => exact regValue_hostWrite_cwin _ k j v
      | _ => rfl
    | _ => rfl
  · rcases hostWrite_cases r v { s with host := rest } with ⟨h, -⟩ | ⟨-, n, w, e⟩
    · exact absurd h hr
    · rw [e]

/-! ### LOOKUP's nine writes (R122) -/

theorem run_succ {s t : State} (h : step s = .next t) (k : Nat) :
    Sys2Proof.core.run (k + 1) s = Sys2Proof.core.run k t := by
  have hcore : Sys2Proof.core.step s = .next t := h
  simp only [Host.Core.run, hcore]

/-- The words of a window after the words `ks` of it are written. -/
def writeWords (f : Fin 8 → Word) (ks : List (Fin 8)) (v : Vector Word 8) : Vector Word 8 :=
  ks.foldl (fun v k => v.set k.val (f k) k.isLt) v

theorem getElem_writeWords (f : Fin 8 → Word) (ks : List (Fin 8)) (v : Vector Word 8) (j : Fin 8) :
    (writeWords f ks v)[j] = if j ∈ ks then f j else v[j] := by
  induction ks generalizing v with
  | nil => simp [writeWords]
  | cons k ks ih =>
    have hcons : writeWords f (k :: ks) v = writeWords f ks (v.set k.val (f k) k.isLt) := rfl
    rw [hcons, ih]
    by_cases hj : j ∈ ks
    · simp [hj]
    · by_cases hk : k = j
      · subst hk
        simp [hj]
      · have hval : k.val ≠ j.val := fun e => hk (Fin.ext e)
        simp [hj, Ne.symm hk, hval]

/-- Writing all eight words leaves exactly the written ones. -/
theorem writeWords_all (f : Fin 8 → Word) (v : Vector Word 8) :
    writeWords f (List.finRange 8) v = Vector.ofFn f := by
  apply Vector.ext
  intro k hk
  have h := getElem_writeWords f (List.finRange 8) v ⟨k, hk⟩
  rw [if_pos (List.mem_finRange _)] at h
  rw [Vector.getElem_ofFn]
  exact h

/-- Writes of CWIN registers run one after another. -/
theorem run_cwin_writes (f : Fin 8 → Word) (ks : List (Fin 8)) (s : State) (rest : List HostLine)
    (hb : s.busy = false) (hh : s.host = ks.map (fun k => wrLine (.cwin k) (f k)) ++ rest) :
    Sys2Proof.core.run ks.length s = .next { s with host := rest, cwin := writeWords f ks s.cwin } := by
  induction ks generalizing s with
  | nil =>
    obtain rfl : s.host = rest := hh
    rfl
  | cons k ks ih =>
    rw [List.length_cons, run_succ (step_wrLine hb hh)]
    exact ih _ hb rfl

/-- The word LOOKUP writes to CWINk (R122). -/
def lookupWord (c : List Bool) (k : Fin 8) : Word := (wordsOfVec (BitVec.ofNat 256 (codeVal c)))[k]

/-- The eight words hold the value of LOOKUP's string. -/
theorem vecOfWords_lookupWord (c : List Bool) :
    vecOfWords (Vector.ofFn (lookupWord c)) = BitVec.ofNat 256 (codeVal c) := by
  have hwords : Vector.ofFn (lookupWord c) = wordsOfVec (BitVec.ofNat 256 (codeVal c)) := by
    apply Vector.ext
    intro k hk
    rw [Vector.getElem_ofFn]
    rfl
  rw [hwords, vecOfWords_wordsOfVec]

/-- The state LOOKUP's writes leave. -/
theorem run_lookupLines {s : State} {c : List Bool} {rest : List HostLine} (hb : s.busy = false)
    (hh : s.host = lookupLines c ++ rest) : Sys2Proof.core.run 9 s = .next { s with
      host := runLines .symbolOf ++ rest, cwinLen := (BitVec.ofNat 32 c.length).setWidth 8,
      cwin := Vector.ofFn (lookupWord c) } := by
  have hfirst := step_wrLine (r := .cwinLen) (v := BitVec.ofNat 32 c.length)
    (rest := (List.finRange 8).map (fun k => wrLine (.cwin k) (lookupWord c k)) ++ (runLines .symbolOf ++ rest)) hb
    (by rw [hh, lookupLines, List.append_assoc, List.cons_append]; rfl)
  have hwords := run_cwin_writes (lookupWord c) (List.finRange 8)
    { s with
      host := (List.finRange 8).map (fun k => wrLine (.cwin k) (lookupWord c k)) ++ (runLines .symbolOf ++ rest)
      cwinLen := (BitVec.ofNat 32 c.length).setWidth 8 } _ hb rfl
  rw [writeWords_all] at hwords
  exact (run_succ hfirst 8).trans hwords

/-- Settles O18: CWIN then holds the string's value and CWIN_LEN its length, so the input codeword is the string. -/
theorem lookupLoadsTheCodeword : Obligations.LookupLoadsTheCodeword := by
  intro s c rest hb hc hh
  have hlen : ((BitVec.ofNat 32 c.length).setWidth 8).toNat = c.length := by
    rw [BitVec.toNat_setWidth, BitVec.toNat_ofNat, Nat.mod_eq_of_lt (by omega), Nat.mod_eq_of_lt (by omega)]
  refine ⟨_, run_lookupLines hb hh, ?_, rfl, rfl⟩
  rw [inputCodeword, hlen, cwinVec, vecOfWords_lookupWord]
  exact codeBits_codeVal c (by omega)

/-! ### Reset and CLEAR (R142, R300, R303) -/

/-- After reset every register of the window but ID reads 0 (R31). -/
theorem regValue_resetState (s : State) (r : HostReg) :
    regValue (resetState s) r = if r = .id then 0x48554631 else 0 := by
  cases r with
  | status => simp [regValue, statusWord, decDead, decPend, Phase.code, ErrCode.code]
  | cwin k => simp [regValue]
  | resCw k => simp [regValue, Results.zero]
  | _ => simp [regValue, Results.zero]

/-- A reset line has its step whenever it is the host's turn. -/
theorem step_reset {s : State} {n : Nat} {rest : List HostLine} (ht : turn s = some .host)
    (hh : s.host = .reset n :: rest) : ∃ l, step s = .next (hostReset n { s with schedule := l, host := rest }) := by
  obtain ⟨l, hl⟩ := afterTurn_eq s
  refine ⟨l, ?_⟩
  rw [step_host ht, hl]
  simp [hostStep, hh]

/-- Settles O20, field by field of the state after reset. -/
theorem resetRestoresEverything : Obligations.ResetRestoresEverything := by
  intro s n rest ht hh
  obtain ⟨l, hstep⟩ := step_reset ht hh
  obtain ⟨henc, hdec⟩ := ports_of_hostReset n { s with schedule := l, host := rest }
  refine ⟨_, hstep, regValue_resetState _, ?_⟩
  refine ⟨?_, hostReset_phase _ _, ?_, ?_, ?_, ?_, ?_, ?_, ?_, ?_, ?_, ?_, ?_, ?_, ⟨_, henc.symm⟩, ⟨_, hdec.symm⟩⟩ <;>
    simp [hostReset, freqOf, cbLenOf, inQueue]

/-- Settles O23, field by field of the state CLEAR leaves. -/
theorem clearReturnsToReset : Obligations.ClearReturnsToReset := by
  refine ⟨rfl, fun s => ⟨finish (clearState s), rfl, fun x => ?_, fun i => ?_, ?_⟩⟩
  · simp [freqOf, cbLenOf]
  · simp [inQueue]
  · simp only [finish, clearState, freeArrays, State.reset]

end Sys2Proof.Machine
end

section
/-! PROOFS of the statements about the accesses that reach no register (spec/20_memory.md R80 to R83). -/

namespace Sys2Proof.Machine

/-! ### Accesses that select no register -/

/-- An access that is no aligned word is refused, whatever it would do to a register (R83). -/
theorem onSelected_notAWord {addr size : Nat} (h : size ≠ 4 ∨ addr % 4 ≠ 0) (f : HostReg → State) :
    onSelected addr size f = .refused .notAnAlignedWord := by
  simp only [onSelected, select_notAWord h]

/-- An address outside the window lies in another 128-byte block (R80, R81). -/
theorem div_ne_hufBlock_of_outside {addr : Nat} (h : addr < Config.hufBase ∨ Config.hufBase + 0x7F < addr) :
    addr / 128 ≠ Config.hufBlock := by
  unfold Config.hufBase at h
  omega

/-- An aligned word outside the window faults, whatever it would do to a register (log 10). -/
theorem onSelected_outside {addr : Nat} (ha : addr % 4 = 0)
    (h : addr < Config.hufBase ∨ Config.hufBase + 0x7F < addr) (f : HostReg → State) :
    onSelected addr 4 f = .fault .outsideWindow := by
  simp only [onSelected, select_outside ha (div_ne_hufBlock_of_outside h)]

/-! ### The host's step of a read or a write -/

/-- At the host's turn a read line accesses what its address selects. -/
theorem step_rd {s : State} {addr size : Nat} {rest : List HostLine} (ht : turn s = some .host)
    (hh : s.host = .rd addr size :: rest) :
    step s = onSelected addr size (fun r => hostRead r { afterTurn s with host := rest }) :=
  (step_host ht).trans (hostStep_rd ((afterTurn_host s).trans hh))

/-- At the host's turn a write line accesses what its address selects. -/
theorem step_wr {s : State} {addr size : Nat} {v : Word} {rest : List HostLine} (ht : turn s = some .host)
    (hh : s.host = .wr addr size v :: rest) :
    step s = onSelected addr size (fun r => hostWrite r v { afterTurn s with host := rest }) :=
  (step_host ht).trans (hostStep_wr ((afterTurn_host s).trans hh))

/-- Settles O14: a host step of such an access is its selection, which is none. -/
theorem unalignedAccessIsRefused : Obligations.UnalignedAccessIsRefused := fun _ _ _ _ h =>
  ⟨fun ht hh => (step_rd ht hh).trans (onSelected_notAWord h _),
    fun _ ht hh => (step_wr ht hh).trans (onSelected_notAWord h _)⟩

/-- Settles O15: a host step of such an access is its selection, which lies outside the window. -/
theorem accessOutsideTheWindowFaults : Obligations.AccessOutsideTheWindowFaults := fun _ _ _ ha h =>
  ⟨fun ht hh => (step_rd ht hh).trans (onSelected_outside ha h _),
    fun _ ht hh => (step_wr ht hh).trans (onSelected_outside ha h _)⟩

end Sys2Proof.Machine
end

section
/-! PROOFS of the statements about the encoding (spec/30_encoding.md): which words a row selects, in the fields of R111;
that decode and encode are inverse to each other; how many words are legal; and the steps of an illegal word and of
WAIT. -/

namespace Sys2Proof

/-! ### The opcode map (R116) -/

/-- The map holds the row of every mnemonic. -/
theorem row_mem_opcodeMap (m : Mnemonic) : m.row ∈ opcodeMap := by cases m <;> decide

/-- The map holds nothing but the rows of the mnemonics. -/
theorem eq_row_of_mem_opcodeMap : ∀ r ∈ opcodeMap, r = r.mnemonic.row := by decide

@[simp] theorem Mnemonic.mnemonic_row (m : Mnemonic) : m.row.mnemonic = m := by cases m <;> rfl

/-- No two rows share an OPC. -/
theorem nodup_opcs : (opcodeMap.map (fun r => opcField r.pattern)).Nodup := by decide

/-- The OPC of a row names its mnemonic. -/
theorem mnemonic_of_opc {m n : Mnemonic} (h : opcField m.row.pattern = opcField n.row.pattern) : m = n := by
  have hrow : m.row = n.row := List.inj_on_of_nodup_map nodup_opcs (row_mem_opcodeMap m) (row_mem_opcodeMap n) h
  rw [← m.mnemonic_row, hrow, n.mnemonic_row]

/-- A row's mask leaves out exactly its operand bits (R112, R116). -/
theorem Mnemonic.mask_row (m : Mnemonic) : m.row.mask = BitVec.allOnes 32 <<< m.format.operandBits := by
  cases m <;> rfl

/-- A row's match word has its OPC, and zeros below it. -/
theorem Mnemonic.toNat_pattern_row (m : Mnemonic) : m.row.pattern.toNat = (opcField m.row.pattern).toNat * 2 ^ 24 := by
  cases m <;> rfl

theorem Format.operandBits_le (f : Format) : f.operandBits ≤ 9 := by cases f <;> decide

/-! ### The words a row selects (R111, R116, R117) -/

/-- A row selects the words that are its match word with their operand bits cleared. -/
theorem selects_iff_div {m : Mnemonic} {w : Word} : m.row.selects w = true ↔
    2 ^ m.format.operandBits * (w.toNat / 2 ^ m.format.operandBits) = m.row.pattern.toNat := by
  have hlow : (w &&& m.row.mask).toNat = 2 ^ m.format.operandBits * (w.toNat / 2 ^ m.format.operandBits) := by
    rw [m.mask_row, ← BitVec.shiftLeft_ushiftRight, BitVec.toNat_shiftLeft, BitVec.toNat_ushiftRight,
      Nat.shiftRight_eq_div_pow, Nat.shiftLeft_eq, Nat.mul_comm]
    exact Nat.mod_eq_of_lt ((Nat.mul_div_le _ _).trans_lt w.isLt)
  rw [OpRow.selects, beq_iff_eq, BitVec.toNat_eq, hlow]

theorem toNat_opcField (w : Word) : (opcField w).toNat = w.toNat / 2 ^ 24 % 2 ^ 8 := by
  rw [opcField, BitVec.extractLsb'_toNat, Nat.shiftRight_eq_div_pow]

theorem toNat_rsvField (w : Word) : (rsvField w).toNat = w.toNat / 2 ^ 16 % 2 ^ 8 := by
  rw [rsvField, BitVec.extractLsb'_toNat, Nat.shiftRight_eq_div_pow]

theorem toNat_argField (w : Word) : (argField w).toNat = w.toNat % 2 ^ 16 := BitVec.extractLsb'_toNat ..

/-- A row selects a word exactly where OPC is the row's, RSV is 0 and ARG has no bit above the operand. -/
theorem selects_iff_fields {m : Mnemonic} {w : Word} : m.row.selects w = true ↔
    opcField w = opcField m.row.pattern ∧ rsvField w = 0 ∧ (argField w).toNat < 2 ^ m.format.operandBits := by
  rw [selects_iff_div, m.toNat_pattern_row]
  generalize opcField m.row.pattern = c
  rw [BitVec.toNat_eq (y := c), BitVec.toNat_eq (y := 0), toNat_opcField, toNat_rsvField, toNat_argField]
  have hw : w.toNat < 2 ^ 32 := w.isLt
  have hc : c.toNat < 2 ^ 8 := c.isLt
  have hzero : (0 : BitVec 8).toNat = 0 := rfl
  cases m.format <;> simp only [Format.operandBits] <;> omega

/-- Settles O4: both rows have the word's OPC. -/
theorem atMostOneRowMatches : Obligations.AtMostOneRowMatches := by
  intro w m n hm hn
  exact mnemonic_of_opc ((selects_iff_fields.1 hm).1.symm.trans (selects_iff_fields.1 hn).1)

/-! ### The decoder by rows (R120) -/

@[simp] theorem Mnemonic.mnemonic_read (m : Mnemonic) (w : Word) : (m.read w).mnemonic = m := by cases m <;> rfl

/-- A word that selects a row decodes to the row's command. -/
theorem decode_of_selects {m : Mnemonic} {w : Word} (h : m.row.selects w = true) : decode w = .ok (m.read w) := by
  obtain ⟨r, hr⟩ : ∃ r, opcodeMap.find? (fun r => r.selects w) = some r :=
    Option.isSome_iff_exists.1 (List.find?_isSome.2 ⟨m.row, row_mem_opcodeMap m, h⟩)
  have hrow := eq_row_of_mem_opcodeMap r (List.mem_of_find?_eq_some hr)
  have hsel : r.selects w = true := List.find?_some (p := fun r : OpRow => r.selects w) hr
  have hm : r.mnemonic = m := atMostOneRowMatches w _ _ (hrow ▸ hsel) h
  simp only [decode, hr, hm]

/-- A word that selects no row is illegal. -/
theorem decode_of_not_selects {w : Word} (h : ∀ m : Mnemonic, m.row.selects w ≠ true) :
    decode w = .error (illegalReason w) := by
  have hnone : opcodeMap.find? (fun r => r.selects w) = none := List.find?_eq_none.2 fun r hr hsel =>
    h r.mnemonic (eq_row_of_mem_opcodeMap r hr ▸ hsel)
  simp only [decode, hnone]

/-- A word decodes to a command exactly where it selects the command's row and holds its operand. -/
theorem decode_eq_ok_iff {w : Word} {i : Instr} :
    decode w = .ok i ↔ i.mnemonic.row.selects w = true ∧ i.mnemonic.read w = i := by
  constructor
  · intro h
    by_cases hsel : ∃ m : Mnemonic, m.row.selects w = true
    · obtain ⟨m, hm⟩ := hsel
      obtain rfl : m.read w = i := by simpa [decode_of_selects hm] using h
      simp [hm]
    · rw [decode_of_not_selects (not_exists.1 hsel)] at h
      cases h
  · rintro ⟨hsel, hread⟩
    rw [decode_of_selects hsel, hread]

/-- The illegal words are those that select no row (R117). -/
theorem decode_error_iff {w : Word} : (∃ e, decode w = .error e) ↔ ∀ m : Mnemonic, m.row.selects w ≠ true := by
  constructor
  · rintro ⟨e, he⟩ m hm
    rw [decode_of_selects hm] at he
    cases he
  · exact fun h => ⟨_, decode_of_not_selects h⟩

/-! ### A command is its mnemonic with its operand (R112, R113) -/

/-- The operand of a command fits its format, and its word selects its row (R112, R116). -/
theorem encodeSelects (i : Instr) : Laws.EncodeSelects.Statement i := by
  cases i with
  | nop => exact Laws.EncodeSelects.nop
  | clear => exact Laws.EncodeSelects.clear
  | tallyByte s => exact Laws.EncodeSelects.tallyByte s
  | tallyAbort => exact Laws.EncodeSelects.tallyAbort
  | build => exact Laws.EncodeSelects.build
  | codewordOf s => exact Laws.EncodeSelects.codewordOf s
  | encodeSym s => exact Laws.EncodeSelects.encodeSym s
  | symbolOf => exact Laws.EncodeSelects.symbolOf
  | decodeBit b => exact Laws.EncodeSelects.decodeBit b
  | decodeFlush => exact Laws.EncodeSelects.decodeFlush
  | sizes => exact Laws.EncodeSelects.sizes
  | nodeRead k => exact Laws.EncodeSelects.nodeRead k

@[simp] theorem Mnemonic.mnemonic_withOperand (m : Mnemonic) (n : Nat) : (m.withOperand n).mnemonic = m := by
  cases m <;> rfl

/-- A command is its mnemonic with its operand. -/
theorem withOperand_operand (i : Instr) : i.mnemonic.withOperand i.operand = i := by
  cases i with
  | tallyByte s => exact congrArg Instr.tallyByte (BitVec.ofNat_toNat ..)
  | codewordOf s => exact congrArg Instr.codewordOf (BitVec.ofNat_toNat ..)
  | encodeSym s => exact congrArg Instr.encodeSym (BitVec.ofNat_toNat ..)
  | decodeBit b => cases b <;> rfl
  | nodeRead k => exact congrArg Instr.nodeRead (BitVec.ofNat_toNat ..)
  | nop | clear | tallyAbort | build | symbolOf | decodeFlush | sizes => rfl

/-- The operand a command is built with is its operand, where it fits the format. -/
theorem operand_withOperand {m : Mnemonic} {n : Nat} (h : n < 2 ^ m.format.operandBits) :
    (m.withOperand n).operand = n := by
  cases m with
  | tallyByte | codewordOf | encodeSym | nodeRead => exact (BitVec.toNat_ofNat ..).trans (Nat.mod_eq_of_lt h)
  | decodeBit =>
    change n < 2 at h
    interval_cases n <;> rfl
  | nop | clear | tallyAbort | build | symbolOf | decodeFlush | sizes => exact (Nat.lt_one_iff.1 h).symm

/-- A word's operand bits are its operand as an integer (R113). -/
theorem Mnemonic.operand_read (m : Mnemonic) (w : Word) :
    (m.read w).operand = w.toNat % 2 ^ m.format.operandBits := by
  cases m with
  | tallyByte | codewordOf | encodeSym | nodeRead => exact BitVec.extractLsb'_toNat ..
  | decodeBit => exact (Nat.toNat_testBit ..).trans (congrArg (· % 2) (Nat.div_one _))
  | nop | clear | tallyAbort | build | symbolOf | decodeFlush | sizes => exact (Nat.mod_one _).symm

/-! ### decode after encode (R122) -/

/-- The operand bits of a command's word are its operand: the match word has none set. -/
theorem toNat_encode_mod (i : Instr) : (encode i).toNat % 2 ^ i.mnemonic.format.operandBits = i.operand := by
  obtain ⟨hfit, -⟩ := encodeSelects i
  have hbits := i.mnemonic.format.operandBits_le
  have hpattern : i.mnemonic.row.pattern.toNat % 2 ^ i.mnemonic.format.operandBits = 0 := by
    rw [i.mnemonic.toNat_pattern_row]
    exact Nat.mod_eq_zero_of_dvd (Dvd.dvd.mul_left (Nat.pow_dvd_pow 2 (by omega)) _)
  have hword : i.operand < 2 ^ 32 := hfit.trans_le (Nat.pow_le_pow_right (by omega) (by omega))
  rw [encode, BitVec.toNat_or, BitVec.toNat_ofNat, Nat.mod_eq_of_lt hword, Nat.or_mod_two_pow, hpattern, Nat.zero_or,
    Nat.mod_eq_of_lt hfit]

/-- The operand read from a command's word is the command's (R113). -/
theorem read_encode (i : Instr) : i.mnemonic.read (encode i) = i := by
  have hoperand : (i.mnemonic.read (encode i)).operand = i.operand := by
    rw [i.mnemonic.operand_read, toNat_encode_mod]
  rw [← withOperand_operand (i.mnemonic.read _), i.mnemonic.mnemonic_read, hoperand, withOperand_operand]

theorem decode_encode (i : Instr) : decode (encode i) = .ok i :=
  decode_eq_ok_iff.2 ⟨(encodeSelects i).2, read_encode i⟩

/-- Settles O1: every command is well formed, so none is left out. -/
theorem decodeOfEncode : Obligations.DecodeOfEncode := fun i _ => decode_encode i

/-! ### encode after decode (R118) -/

/-- A word that selects a row is the row's match word and its own operand bits. -/
theorem encode_read {m : Mnemonic} {w : Word} (h : m.row.selects w = true) : encode (m.read w) = w := by
  have hrest : w.toNat % 2 ^ m.format.operandBits < 2 ^ 32 := (Nat.mod_le _ _).trans_lt w.isLt
  rw [encode, m.mnemonic_read, m.operand_read, BitVec.toNat_eq, BitVec.toNat_or, BitVec.toNat_ofNat,
    Nat.mod_eq_of_lt hrest, ← selects_iff_div.1 h,
    ← Nat.two_pow_add_eq_or_of_lt (Nat.mod_lt _ (Nat.two_pow_pos _)), Nat.div_add_mod]

/-- Settles O2: the word selects the row of the command it decodes to. -/
theorem encodeOfDecoded : Obligations.EncodeOfDecoded := by
  intro w i h
  obtain ⟨hsel, hread⟩ := decode_eq_ok_iff.1 h
  exact hread ▸ encode_read hsel

/-- decode and encode are inverse to each other. -/
theorem decode_eq_ok_iff_encode {w : Word} {i : Instr} : decode w = .ok i ↔ encode i = w :=
  ⟨encodeOfDecoded w i, fun h => h ▸ decode_encode i⟩

theorem encode_injective : Function.Injective encode := fun i j h =>
  Except.ok.inj ((decode_encode i).symm.trans (h ▸ decode_encode j))

/-! ### The legal words, counted (R117) -/

/-- The commands of one row, one for each operand of its format. -/
def rowCommands (m : Mnemonic) : List Instr := (List.range (2 ^ m.format.operandBits)).map m.withOperand

/-- Every command, row after row. -/
def allCommands : List Instr := opcodeMap.flatMap (fun r => rowCommands r.mnemonic)

theorem mem_allCommands (i : Instr) : i ∈ allCommands :=
  List.mem_flatMap.2 ⟨i.mnemonic.row, row_mem_opcodeMap _, by
    rw [i.mnemonic.mnemonic_row]
    exact List.mem_map.2 ⟨i.operand, List.mem_range.2 (encodeSelects i).1, withOperand_operand i⟩⟩

theorem mnemonic_of_mem_rowCommands {m : Mnemonic} {i : Instr} (h : i ∈ rowCommands m) : i.mnemonic = m := by
  obtain ⟨n, -, rfl⟩ := List.mem_map.1 h
  exact m.mnemonic_withOperand n

theorem nodup_rowCommands (m : Mnemonic) : (rowCommands m).Nodup :=
  List.nodup_range.map_on fun a ha b hb hab => by
    rw [← operand_withOperand (List.mem_range.1 ha), hab, operand_withOperand (List.mem_range.1 hb)]

/-- No command is listed twice: one row's differ in their operands, two rows' in their mnemonics. -/
theorem nodup_allCommands : allCommands.Nodup := by
  have hrows : opcodeMap.Pairwise (fun r q => r.mnemonic ≠ q.mnemonic) := by decide
  refine List.nodup_flatMap.2 ⟨fun r _ => nodup_rowCommands r.mnemonic, hrows.imp fun hne i hi hj => hne ?_⟩
  exact (mnemonic_of_mem_rowCommands hi).symm.trans (mnemonic_of_mem_rowCommands hj)

/-- Seven commands with no operand, three of 256 operands, one of 2 and one of 512. -/
theorem length_allCommands : allCommands.length = 1289 := by
  simp only [allCommands, rowCommands, List.length_flatMap, List.length_map, List.length_range]
  rfl

/-! ### Illegal words, examples, WAIT -/

/-- Settles O3: a word that selects no row fails each row in a field, and the legal words are the encodings of all
commands. -/
theorem illegalWordsRaiseIllegalCmd : Obligations.IllegalWordsRaiseIllegalCmd := by
  refine ⟨fun w => ?_, fun s e he => Machine.coreStep_error he, allCommands.map encode,
    nodup_allCommands.map encode_injective, ?_, fun w => ?_⟩
  · simp only [decode_error_iff, ne_eq, selects_iff_fields, not_and_or, imp_iff_not_or, not_lt]
  · rw [List.length_map, length_allCommands]
  · simp [decode_eq_ok_iff_encode, mem_allCommands]

/-- Settles O5, by running the decoder on each word. -/
theorem encodingExamples : Obligations.EncodingExamples := by
  unfold Obligations.EncodingExamples
  decide

end Sys2Proof

namespace Sys2Proof.Machine

/-- STATUS is no RES register, so a read of it observes the STATUS word and draws no free value (R86). -/
theorem hostRead_status (s : State) : hostRead .status s = { s with reads := s.reads ++ [statusWord s] } := by
  simp [hostRead, readReg, isResReg, regValue]

/-- WAIT observes STATUS and is consumed where BUSY reads 0 (R122). -/
theorem hostStep_wait {s : State} {rest : List HostLine} (h : s.host = .wait :: rest) :
    hostStep s = .next { s with reads := s.reads ++ [statusWord s], host := if s.busy then s.host else rest } := by
  have hline : (if s.busy then s else { s with host := rest }) =
      { s with host := if s.busy then s.host else rest } := by
    split <;> rfl
  have hstep : hostStep s = .next (hostRead .status (if s.busy then s else { s with host := rest })) := by
    simp [hostStep, h]
  rw [hstep, hline, hostRead_status]
  rfl

/-- Settles O17: a choice of turn changes the schedule alone. -/
theorem waitPollsStatus : Obligations.WaitPollsStatus := by
  intro s rest ht hh
  obtain ⟨l, hl⟩ := afterTurn_eq s
  have hstep : step s = .next { s with
      schedule := l, reads := s.reads ++ [statusWord s], host := if s.busy then s.host else rest } := by
    rw [step_host ht, hl]
    exact hostStep_wait (s := { s with schedule := l }) hh
  exact ⟨_, hstep, rfl, rfl, rfl⟩

end Sys2Proof.Machine
end

section
/-! PROOFS of the statements about the control commands (spec/40_control.md): the words of OPC 0x00, and what NOP does. -/

namespace Sys2Proof

/-- The one legal word with OPC 0x00 is the encoding of NOP (R116, R141). -/
theorem eq_encode_nop_of_opc {w : Word} {m : Mnemonic} (hw : opcField w = 0) (hm : m.row.selects w = true) :
    w = encode .nop := by
  obtain rfl : m = .nop := mnemonic_of_opc ((selects_iff_fields.1 hm).1.symm.trans hw)
  exact (encode_read hm).symm

/-- Settles O22: a legal word with OPC 0x00 would select NOP's row, whose one word is 0; executed, NOP only finishes. -/
theorem nopFinishes : Obligations.NopFinishes :=
  ⟨rfl, fun _ hw hne => decode_error_iff.2 fun _ hm => hne (eq_encode_nop_of_opc hw hm), fun _ => rfl⟩

end Sys2Proof
end

section
/-! PROOFS of the statements about the tally (spec/41_tally.md): what TALLY_BYTE and TALLY_ABORT do in each case, and
what tallying a whole text leaves. -/

namespace Sys2Proof.Machine

/-! ### TALLY_BYTE (R151, R152) -/

/-- The word of TALLY_BYTE is OPC 0x10 with the byte as its operand. -/
theorem encode_tallyByte (x : Symbol) : encode (.tallyByte x) = 0x10000000 ||| x.setWidth 32 :=
  congrArg (0x10000000 ||| ·) (BitVec.ofNat_toNat 32 x)

theorem exec_tallyByte_of_not_empty {x : Symbol} {s : State} (hp : s.phase ≠ .empty) :
    exec (.tallyByte x) s = .next (raise .phaseErr s) :=
  if_pos hp

theorem exec_tallyByte_of_full {x : Symbol} {s : State} (hp : s.phase = .empty) (hc : s.origCount = 0xFFFFFFFF) :
    exec (.tallyByte x) s = .next (raise .countOverflow s) :=
  (if_neg (not_not.2 hp)).trans (if_pos hc)

theorem exec_tallyByte_of_room {x : Symbol} {s : State} (hp : s.phase = .empty) (hc : s.origCount ≠ 0xFFFFFFFF) :
    exec (.tallyByte x) s = .next (finish (countByte x s)) :=
  (if_neg (not_not.2 hp)).trans (if_neg hc)

theorem freqOf_tallied (x y : Symbol) (s : State) :
    freqOf (finish (countByte x s)) y = if x = y then freqOf s y + 1 else freqOf s y :=
  (freqOf_congr (finish_freq _) y).trans (freqOf_countByte x y s)

/-- Settles O24: one equation for each of the three cases, and what a counted byte does to FREQ. -/
theorem tallyByteCounts : Obligations.TallyByteCounts := fun x s =>
  ⟨encode_tallyByte x, exec_tallyByte_of_not_empty, exec_tallyByte_of_full, fun hp hc =>
    ⟨_, exec_tallyByte_of_room hp hc, (freqOf_tallied x x s).trans (if_pos rfl),
      fun y hy => (freqOf_tallied x y s).trans (if_neg hy.symm), rfl⟩⟩

/-! ### TALLY_ABORT (R157, R158) -/

theorem exec_tallyAbort_of_not_empty {s : State} (hp : s.phase ≠ .empty) :
    exec .tallyAbort s = .next (raise .phaseErr s) :=
  if_pos hp

theorem exec_tallyAbort_of_empty {s : State} (hp : s.phase = .empty) :
    exec .tallyAbort s = .next (raise .ioError (discardTally s)) :=
  if_neg (not_not.2 hp)

/-- Settles O26: one equation for each phase; the discarded tally is zero at every symbol. -/
theorem tallyAbortDiscards : Obligations.TallyAbortDiscards :=
  ⟨rfl, fun s => ⟨exec_tallyAbort_of_not_empty, fun hp =>
    ⟨_, exec_tallyAbort_of_empty hp, fun x => freqOf_discardTally x s, rfl⟩⟩⟩

/-! ### Tallying a text (R150) -/

theorem runCommands_cons {i : Instr} {s t : State} (h : exec i s = .next t) (rest : List Instr) :
    runCommands (i :: rest) s = runCommands rest t := by
  rw [runCommands, h]

/-- One more occurrence counts one before the others. -/
theorem add_ofNat_succ (c : Word) (n : Nat) : c + BitVec.ofNat 32 (n + 1) = c + 1 + BitVec.ofNat 32 n := by
  rw [Nat.add_comm, BitVec.ofNat_add, ← BitVec.add_assoc]
  rfl

/-- From zero, a number of occurrences that fits the register is counted exactly. -/
theorem toNat_zero_add_ofNat {n : Nat} (h : n < 2 ^ 32) : ((0 : Word) + BitVec.ofNat 32 n).toNat = n := by
  rw [zero_add, BitVec.toNat_ofNat, Nat.mod_eq_of_lt h]

/-- While ORIG_COUNT has room for the text, every byte is counted: each count goes up by the symbol's occurrences and
ORIG_COUNT by the text's length, in the registers' width. -/
theorem runCommands_tallyByte (text : List Symbol) {s : State} (hp : s.phase = .empty)
    (hroom : s.origCount.toNat + text.length < 2 ^ 32) :
    ∃ t, runCommands (text.map Instr.tallyByte) s = .next t ∧
      (∀ x, freqOf t x = freqOf s x + BitVec.ofNat 32 (text.count x)) ∧
      t.origCount = s.origCount + BitVec.ofNat 32 text.length := by
  induction text generalizing s with
  | nil => exact ⟨s, rfl, by simp, by simp⟩
  | cons b text ih =>
    rw [List.length_cons] at hroom
    have hone : (s.origCount + 1).toNat = s.origCount.toNat + 1 := BitVec.toNat_add_of_lt (y := 1) (by simp; omega)
    have hnotFull : s.origCount ≠ 0xFFFFFFFF := fun h => by
      simp [h] at hroom
      omega
    obtain ⟨t, hrun, hfreq, hcount⟩ := ih (s := finish (countByte b s)) hp
      (by rw [finish_origCount, countByte_origCount, hone]; omega)
    refine ⟨t, (runCommands_cons (exec_tallyByte_of_room hp hnotFull) _).trans hrun, fun x => ?_, ?_⟩
    · rw [hfreq, freqOf_tallied]
      by_cases h : b = x
      · rw [if_pos h, h, List.count_cons_self, add_ofNat_succ]
      · rw [if_neg h, List.count_cons_of_ne h]
    · rw [hcount, finish_origCount, countByte_origCount, List.length_cons, add_ofNat_succ]

/-- Settles O25: from zero counts the sums do not wrap, since no symbol occurs more often than the text is long. -/
theorem tallyCountsTheText : Obligations.TallyCountsTheText := by
  intro s text hp hfreq hcount hlen
  obtain ⟨t, hrun, hf, hc⟩ := runCommands_tallyByte text hp (by simpa [hcount] using hlen)
  refine ⟨t, hrun, fun x => ?_, ?_⟩
  · rw [hf, hfreq, toNat_zero_add_ofNat (List.count_le_length.trans_lt hlen)]
  · rw [hc, hcount, toNat_zero_add_ofNat hlen]

end Sys2Proof.Machine
end

section
/-! PROOFS of the statements about BUILD's micro-steps (spec/42_build.md): one equation for each of them, what they
leave unchanged, and the weight of the root they form. -/

namespace Sys2Proof.Machine

/-! ### The queue's least members (R172) -/

/-- The one node that is queued with the least key is the one removed. -/
theorem popMin_of_least {s : State} {m : NodeIdx} (hm : inQueue s m = true)
    (hle : ∀ i, inQueue s i = true → keyLe s m i = true) : popMin s = some (m, dequeue m s) := by
  cases hpop : popMin s with
  | none => exact absurd ((mem_queue s m).2 hm) (by simp [(popMin_eq_none s).1 hpop])
  | some e =>
    obtain ⟨k, t⟩ := e
    obtain ⟨hk, hkle, rfl⟩ := popMin_spec hpop
    rw [keyLe_antisymm (hkle m hm) (hle k hk)]

theorem queue_eq_singleton {s : State} {r : NodeIdx} : queue s = [r] ↔ ∀ i, inQueue s i = true ↔ i = r := by
  simp only [← mem_queue]
  constructor
  · intro h i
    rw [h, List.mem_singleton]
  · intro h
    refine List.perm_singleton.1 ((List.perm_ext_iff_of_nodup (queue_nodup s) (List.nodup_singleton r)).2 fun i => ?_)
    rw [h, List.mem_singleton]

/-- `a` is the key-least queued node and `b` the key-least of the rest: the two that MERGE removes (R177). -/
structure LeastPair (s : State) (a b : NodeIdx) : Prop where
  first_queued : inQueue s a = true
  first_least : ∀ i, inQueue s i = true → keyLe s a i = true
  second_queued : inQueue s b = true
  second_ne : b ≠ a
  second_least : ∀ i, inQueue s i = true → i ≠ a → keyLe s b i = true

/-- BUILD's choice between MERGE and ROOT: no queued node, one, or two to be joined (R176, R180). -/
theorem queue_cases (s : State) : queue s = [] ∨ (∃ r, queue s = [r]) ∨ ∃ a b, LeastPair s a b := by
  cases hpop : popMin s with
  | none => exact .inl ((popMin_eq_none s).1 hpop)
  | some e =>
    obtain ⟨a, t⟩ := e
    obtain ⟨ha, hale, rfl⟩ := popMin_spec hpop
    cases hpop' : popMin (dequeue a s) with
    | none =>
      have hperm := queue_perm_dequeue ha
      rw [(popMin_eq_none _).1 hpop'] at hperm
      exact .inr (.inl ⟨a, List.perm_singleton.1 hperm⟩)
    | some e =>
      obtain ⟨b, u⟩ := e
      obtain ⟨hb, hble, -⟩ := popMin_spec hpop'
      simp only [inQueue_dequeue, Bool.and_eq_true, decide_eq_true_eq] at hb hble
      exact .inr (.inr ⟨a, b, ha, hale, hb.1, hb.2, fun i hi hne => hble i ⟨hi, hne⟩⟩)

/-! ### One equation for each micro-step (R171, R177, R181) -/

theorem exec_build_of_empty {s : State} (hp : s.phase = .empty) : exec .build s = .next (seedStep s) := by
  simp only [exec, execBuild, hp]

theorem exec_build_of_rooted {s : State} (hp : s.phase = .rooted) : exec .build s = indexStep s := by
  simp only [exec, execBuild, hp]

theorem exec_build_of_queueing {s : State} (hp : queueing s.phase = true) : exec .build s = mergeOrRoot s := by
  cases h : s.phase <;> simp_all [exec, execBuild, queueing]

/-- An allocation takes the record that NODE_CNT names (R57). -/
theorem alloc_of_val {s : State} {p : NodeIdx} (hp : p.val = s.nodeCnt.val) (n : NodeRec) :
    alloc n s = some (p, { s with node := s.node.set p.val n p.isLt, nodeCnt := p.succ }) := by
  obtain ⟨⟨q, t⟩, ht⟩ := Option.isSome_iff_exists.1 ((alloc_isSome n s).2 (hp ▸ p.isLt))
  obtain ⟨hq, hcnt, hnode, hframe⟩ := alloc_eq_some ht
  obtain rfl : q = p := Fin.ext (hq.trans hp.symm)
  have hsucc : t.nodeCnt = q.succ := Fin.ext (by rw [hcnt, ← hq, Fin.val_succ])
  rw [ht, hframe, hnode, hsucc]

/-- ROOT of the empty queue (R185). -/
theorem mergeOrRoot_of_nil {s : State} (hq : queue s = []) : mergeOrRoot s = .next (rootEmpty s) := by
  unfold mergeOrRoot
  rw [(popMin_eq_none s).2 hq]

/-- Where one removal succeeds and a second does not, ROOT takes the removed node (R180). -/
theorem mergeOrRoot_of_one {s t : State} {r : NodeIdx} (hr : popMin s = some (r, t)) (hlast : popMin t = none) :
    mergeOrRoot s = rootNode r t := by
  unfold mergeOrRoot
  rw [hr]
  dsimp only
  rw [hlast]

/-- Where two removals succeed, MERGE takes the removed nodes (R176). -/
theorem mergeOrRoot_of_two {s t u : State} {a b : NodeIdx} (ha : popMin s = some (a, t)) (hb : popMin t = some (b, u)) :
    mergeOrRoot s = mergeNodes a b u := by
  unfold mergeOrRoot
  rw [ha]
  dsimp only
  rw [hb]

/-- With one node in the queue, ROOT takes it and leaves the queue empty. -/
theorem mergeOrRoot_of_singleton {s : State} {r : NodeIdx} (hq : queue s = [r]) :
    mergeOrRoot s = rootNode r { s with inq := 0 } := by
  have hmem := queue_eq_singleton.1 hq
  have hrest : queue (dequeue r s) = [] := by simp [queue_dequeue, hq]
  have hstate : dequeue r s = { s with inq := 0 } := by
    rw [← inq_eq_zero_of_queue_nil hrest]
    rfl
  have hpop : popMin s = some (r, dequeue r s) :=
    popMin_of_least ((hmem r).2 rfl) fun i hi => (hmem i).1 hi ▸ keyLe_refl s r
  rw [mergeOrRoot_of_one hpop ((popMin_eq_none _).2 hrest), hstate]

theorem mergeOrRoot_of_internal {s : State} {r : NodeIdx} (hq : queue s = [r]) (hl : isLeaf s r = false) :
    mergeOrRoot s = .next { s with inq := 0, root := some r, phase := .rooted } := by
  have hl : isLeaf { s with inq := 0 } r = false := hl
  rw [mergeOrRoot_of_singleton hq, rootNode, hl]
  rfl

/-- A lone leaf goes beneath a synthetic root (R182). -/
theorem mergeOrRoot_of_leaf {s : State} {r p : NodeIdx} (hq : queue s = [r]) (hl : isLeaf s r = true)
    (hp : p.val = s.nodeCnt.val) : mergeOrRoot s = .next { s with
      inq := 0, node := s.node.set p.val (.internal (weightOf s r) (some r) none) p.isLt, nodeCnt := p.succ,
      root := some p, phase := .rooted } := by
  have hl : isLeaf { s with inq := 0 } r = true := hl
  rw [mergeOrRoot_of_singleton hq, rootNode, if_pos hl, alloc_of_val (s := { s with inq := 0 }) hp]
  rfl

/-- MERGE joins the two key-least nodes under the next free record (R177, R178). -/
theorem mergeOrRoot_of_leastPair {s : State} {a b p : NodeIdx} (h : LeastPair s a b) (hp : p.val = s.nodeCnt.val) :
    mergeOrRoot s = .next { s with
      node := s.node.set p.val (.internal (weightOf s a + weightOf s b) (some b) (some a)) p.isLt, nodeCnt := p.succ,
      inq := (enqueue p (dequeue b (dequeue a s))).inq, phase := .merging } := by
  have hsecond : popMin (dequeue a s) = some (b, dequeue b (dequeue a s)) := by
    refine popMin_of_least ?_ fun i hi => ?_
    · simp [h.second_queued, h.second_ne]
    · simp only [inQueue_dequeue, Bool.and_eq_true, decide_eq_true_eq] at hi
      exact h.second_least i hi.1 hi.2
  rw [mergeOrRoot_of_two (popMin_of_least h.first_queued h.first_least) hsecond, mergeNodes,
    alloc_of_val (s := dequeue b (dequeue a s)) hp]
  rfl

/-- Settles O28: MERGE's equation, read record by record and queue bit by queue bit. -/
theorem buildMergesTheTwoLeast : Obligations.BuildMergesTheTwoLeast := by
  intro s a b hphase hroom ha hale hb hne hble
  obtain ⟨p, hp⟩ : ∃ p : NodeIdx, p.val = s.nodeCnt.val := ⟨⟨_, hroom⟩, rfl⟩
  refine ⟨_, (exec_build_of_queueing hphase).trans (mergeOrRoot_of_leastPair ⟨ha, hale, hb, hne, hble⟩ hp),
    congrArg (· + 1) hp, fun i => ?_, fun i => ?_, rfl⟩
  · simp [Vector.getElem_set, ← hp, eq_comm]
  · refine (inQueue_enqueue p i (dequeue b (dequeue a s))).trans ?_
    simp only [inQueue_dequeue, Fin.ext_iff, hp]
    exact Bool.or_comm _ _

/-- Settles O30, by what the one queued node is. -/
theorem buildFixesTheRoot : Obligations.BuildFixesTheRoot := by
  intro s hphase
  rw [exec_build_of_queueing hphase]
  exact ⟨fun hq => mergeOrRoot_of_nil ((queue_eq_nil s).2 hq),
    fun r hr hl => mergeOrRoot_of_internal (queue_eq_singleton.2 hr) hl,
    fun r p hr hl hp => ⟨_, mergeOrRoot_of_leaf (queue_eq_singleton.2 hr) hl hp, congrArg (· + 1) hp, rfl⟩⟩

/-- Settles O32: INDEXED selects no micro-step. -/
theorem buildTwiceIsPhaseErr : Obligations.BuildTwiceIsPhaseErr := by
  intro s hp
  simp only [exec, execBuild, hp, fail, raise]

/-! ### What BUILD leaves unchanged, and the root's weight (R190, R250) -/

/-- Settles O46, micro-step by micro-step. -/
theorem buildLeavesTallyAndResults : Obligations.BuildLeavesTallyAndResults := by
  intro s t h
  rcases execBuild_cases h with ⟨-, rfl⟩ | ⟨-, hm⟩ | ⟨-, hi⟩ | ⟨-, rfl⟩
  · obtain ⟨_, _, _, e⟩ := seedStep_frame s
    rw [e]
    exact ⟨rfl, rfl, rfl, rfl, rfl⟩
  · rw [(mergeOrRoot_phase hm).2]
    exact ⟨rfl, rfl, rfl, rfl, rfl⟩
  · obtain ⟨ls, -, rfl⟩ := indexStep_next hi
    rw [foldl_recordLeaf_frame]
    exact ⟨rfl, rfl, rfl, rfl, rfl⟩
  · exact ⟨rfl, rfl, rfl, rfl, rfl⟩

/-- Settles O60: the root is allocated, and its weight is ORIG_COUNT. -/
theorem rootWeightIsOriginalSize : Obligations.RootWeightIsOriginalSize := by
  rintro s r ⟨-, -, -, ⟨-, -, hroot, -⟩, ⟨-, -, hweight⟩, -⟩ hp hr
  have hweight := hweight (by rw [hp]; rfl)
  rw [hr, refWeight] at hweight
  have hidx : r.val = (BitVec.ofNat 9 r.val).toNat := (refField_some_toNat r).symm
  exact ⟨_, _, execNodeRead_allocated hidx (hroot r hr).1, execSizes_indexed hp, BitVec.eq_of_toNat_eq hweight⟩

end Sys2Proof.Machine
end

section
/-! PROOFS of the statements about BUILD as a whole (R192, R198): from a safe state no core step stops, and how many
steps BUILD takes. -/

namespace Sys2Proof.Machine

/-! ### No core step stops (R192, R196, R197) -/

theorem codecGate_total (s u : State) : ∃ t, codecGate s (complete u) = .next t := by
  unfold codecGate
  split
  · exact ⟨_, rfl⟩
  · exact ⟨_, rfl⟩

/-- Every command but BUILD goes on, in every state. -/
theorem exec_total_of_ne_build {i : Instr} (hi : i ≠ .build) (s : State) : ∃ t, exec i s = .next t := by
  cases i with
  | build => exact absurd rfl hi
  | nop | clear => exact ⟨_, rfl⟩
  | tallyByte x =>
    simp only [exec, execTallyByte]
    split
    · exact ⟨_, rfl⟩
    · split <;> exact ⟨_, rfl⟩
  | tallyAbort =>
    simp only [exec, execTallyAbort]
    split <;> exact ⟨_, rfl⟩
  | nodeRead k =>
    simp only [exec, execNodeRead]
    split <;> exact ⟨_, rfl⟩
  | codewordOf | encodeSym | symbolOf | decodeBit | decodeFlush | sizes => exact codecGate_total s _

theorem two_le_length_queue {s : State} {a b : NodeIdx} (h : LeastPair s a b) : 2 ≤ (queue s).length := by
  have hnd : [a, b].Nodup := by simp [h.second_ne.symm]
  refine (hnd.subperm fun i hi => (mem_queue s i).2 ?_).length_le
  rcases List.mem_pair.1 hi with rfl | rfl
  · exact h.first_queued
  · exact h.second_queued

/-- MERGE finds a free record: with n symbols and k queued nodes 2n - k records are in use (R196). -/
theorem free_record_of_leastPair {s : State} {a b : NodeIdx} (hp : queueing s.phase = true) (hn : NodesCounted s)
    (h : LeastPair s a b) : ∃ p : NodeIdx, p.val = s.nodeCnt.val := by
  obtain ⟨hcount, -, -⟩ := nodesCounted_queueing hp hn
  have htwo := two_le_length_queue h
  have hle := present_length_le s
  exact ⟨⟨s.nodeCnt.val, by omega⟩, rfl⟩

/-- ROOT of a lone leaf finds a free record: that leaf is the only node (R182). -/
theorem free_record_of_leaf {s : State} {r : NodeIdx} (hp : queueing s.phase = true) (hn : NodesCounted s)
    (hq : queue s = [r]) (hl : isLeaf s r = true) : ∃ p : NodeIdx, p.val = s.nodeCnt.val := by
  obtain ⟨hcount, -, hlast⟩ := nodesCounted_queueing hp hn
  rw [hq, List.length_singleton] at hcount
  rcases hlast with h | ⟨i, -, hi, hint, -⟩
  · exact ⟨⟨s.nodeCnt.val, by omega⟩, rfl⟩
  · rw [hq, List.mem_singleton] at hi
    rw [hi, hl] at hint
    cases hint

/-- MERGE and ROOT go on where the node memory has its layout. -/
theorem mergeOrRoot_total {s : State} (hp : queueing s.phase = true) (hn : NodesCounted s) :
    ∃ t, mergeOrRoot s = .next t := by
  rcases queue_cases s with hq | ⟨r, hq⟩ | ⟨a, b, hab⟩
  · exact ⟨_, mergeOrRoot_of_nil hq⟩
  · cases hl : isLeaf s r with
    | false => exact ⟨_, mergeOrRoot_of_internal hq hl⟩
    | true =>
      obtain ⟨p, hfree⟩ := free_record_of_leaf hp hn hq hl
      exact ⟨_, mergeOrRoot_of_leaf hq hl hfree⟩
  · obtain ⟨p, hfree⟩ := free_record_of_leastPair hp hn hab
    exact ⟨_, mergeOrRoot_of_leastPair hab hfree⟩

/-- BUILD's step goes on from a safe state. -/
theorem exec_build_total {s : State} (hs : Safe s) : ∃ t, exec .build s = .next t := by
  obtain ⟨-, -, -, -, -, ⟨-, hforest⟩, hnodes, -⟩ := hs
  cases hp : s.phase with
  | empty => exact ⟨_, exec_build_of_empty hp⟩
  | seeded | merging =>
    have hq : queueing s.phase = true := by rw [hp]; rfl
    obtain ⟨t, ht⟩ := mergeOrRoot_total hq hnodes
    exact ⟨t, (exec_build_of_queueing hq).trans ht⟩
  | rooted =>
    obtain ⟨hsome, -⟩ := hforest (by rw [hp]; rfl)
    obtain ⟨ls, hl⟩ := Option.isSome_iff_exists.1 hsome
    exact ⟨_, execBuild_rooted hp hl⟩
  | indexed => exact ⟨_, buildTwiceIsPhaseErr s hp⟩

/-- Settles O53: an illegal word raises, BUILD goes on by the layout of the node memory and the depth of the tree, and
no other command stops in any state. -/
theorem safeCoreStepCompletes : Obligations.SafeCoreStepCompletes := by
  intro s hs
  cases hd : decode s.cmdLatch with
  | error e => exact ⟨_, coreStep_error hd⟩
  | ok i =>
    rw [coreStep_ok hd]
    by_cases hi : i = .build
    · rw [hi]
      exact exec_build_total hs
    · exact exec_total_of_ne_build hi s

/-! ### How many steps BUILD takes (R198) -/

/-- A safe state from which BUILD goes on alone: it is latched, not complete, and no host access is pending. -/
structure Building (s : State) : Prop where
  safe : Safe s
  phase_ne : s.phase ≠ .indexed
  busy : s.busy = true
  latch : s.cmdLatch = encode .build
  host : s.host = []

/-- How many steps are left to INDEXED: SEED, a MERGE for each queued node but one, ROOT and INDEX (R198). -/
def stepsLeft (s : State) : Nat :=
  match s.phase with
  | .empty => 2 + ((present s).length - 1) + 1
  | .seeded | .merging => ((queue s).length - 1) + 2
  | .rooted => 1
  | .indexed => 0

theorem stepsLeft_empty {s : State} (hp : s.phase = .empty) : stepsLeft s = 2 + ((present s).length - 1) + 1 := by
  simp only [stepsLeft, hp]

theorem stepsLeft_queueing {s : State} (hp : queueing s.phase = true) :
    stepsLeft s = ((queue s).length - 1) + 2 := by
  cases h : s.phase <;> simp_all [stepsLeft, queueing]

theorem stepsLeft_rooted {s : State} (hp : s.phase = .rooted) : stepsLeft s = 1 := by simp only [stepsLeft, hp]

/-- While BUILD goes on alone, the machine's step is BUILD's. -/
theorem step_of_building {s : State} (h : Building s) : step s = exec .build s := by
  have hready := hostReady_nil h.host
  have ht : turn s = some .core := by rw [turn_of_not_hostReady hready, h.busy]; rfl
  rw [step_core ht, afterTurn_of_not_both (by rw [hready, Bool.and_false]), coreStep_ok]
  rw [h.latch]
  exact decode_encode .build

/-- BUILD goes on alone until it reaches INDEXED. -/
theorem building_step {s t : State} (h : Building s) (hstep : step s = .next t) (ht : t.phase ≠ .indexed) :
    Building t := by
  have hsafe := stepKeepsSafe s t h.safe hstep
  rw [step_of_building h] at hstep
  rcases execBuild_frame hstep with ⟨-, -, -, hframe⟩ | ⟨hp, -⟩
  · refine ⟨hsafe, ht, ?_, ?_, ?_⟩ <;> rw [hframe]
    · exact h.busy
    · exact h.latch
    · exact h.host
  · exact absurd hp ht

/-- SEED is one of BUILD's steps: it queues a leaf for each symbol that occurs. -/
theorem stepsLeft_seedStep {s : State} (hp : s.phase = .empty) (hq : QuietOutsideBuild s) :
    stepsLeft s = stepsLeft (seedStep s) + 1 := by
  have hinq : s.inq = 0 := hq.2.1 (by rw [hp]; rfl)
  have hlen := congrArg List.length (seedStep_queue hinq)
  rw [List.length_map, List.length_map] at hlen
  rw [stepsLeft_empty hp, stepsLeft_queueing (s := seedStep s) rfl, hlen]
  omega

/-- A MERGE queues one node for the two it removes, and ROOT is the step after the last of them. -/
theorem stepsLeft_joinEffect {s t : State} (hp : queueing s.phase = true) (h : JoinEffect s t) :
    stepsLeft s = stepsLeft t + 1 := by
  rw [stepsLeft_queueing hp]
  cases h with
  | empty hq | leaf hq | internal hq => rw [hq, stepsLeft_rooted rfl]; rfl
  | @merge a b p c q rest hbefore hafter =>
    rw [stepsLeft_queueing rfl, hbefore.length_eq]
    show _ = (queue { s with inq := q }).length - 1 + 2 + 1
    rw [hafter.length_eq]
    rfl

/-- Each of BUILD's steps leaves one step less, and the last one completes it in INDEXED. -/
theorem step_building {s : State} (h : Building s) :
    ∃ t, step s = .next t ∧ stepsLeft s = stepsLeft t + 1 ∧
      (t.phase = .indexed → t.busy = false ∧ t.err = .ok) := by
  obtain ⟨t, ht⟩ := exec_build_total h.safe
  refine ⟨t, (step_of_building h).trans ht, ?_⟩
  obtain ⟨-, -, hquiet, ⟨halloc, -⟩, -⟩ := h.safe
  rcases execBuild_cases ht with ⟨hp, rfl⟩ | ⟨hp, hm⟩ | ⟨hp, hi⟩ | ⟨hp, -⟩
  · exact ⟨stepsLeft_seedStep hp hquiet, fun h => by cases h⟩
  · have hjoin := joinEffect_of_mergeOrRoot halloc hm
    exact ⟨stepsLeft_joinEffect hp hjoin, fun h => absurd h (phase_of_joinEffect hjoin)⟩
  · obtain ⟨ls, -, rfl⟩ := indexStep_next hi
    exact ⟨stepsLeft_rooted hp, fun _ => ⟨rfl, rfl⟩⟩
  · exact absurd hp h.phase_ne

theorem phase_indexed_iff {s : State} : s.phase = .indexed ↔ stepsLeft s = 0 := by
  cases hp : s.phase <;> simp [stepsLeft, hp]

/-- Before its last step BUILD still goes on alone. -/
theorem run_building_lt {s : State} (h : Building s) {k : Nat} (hk : k < stepsLeft s) :
    ∃ t, Sys2Proof.core.run k s = .next t ∧ Building t := by
  induction k generalizing s with
  | zero => exact ⟨s, rfl, h⟩
  | succ k ih =>
    obtain ⟨t, hstep, hleft, -⟩ := step_building h
    have ht : t.phase ≠ .indexed := fun hp => by
      have := phase_indexed_iff.1 hp
      omega
    rw [run_succ hstep]
    exact ih (building_step h hstep ht) (by omega)

/-- After its last step BUILD is complete. -/
theorem run_building_stepsLeft {s : State} (h : Building s) :
    ∃ t, Sys2Proof.core.run (stepsLeft s) s = .next t ∧ t.phase = .indexed ∧ t.busy = false ∧ t.err = .ok := by
  induction hk : stepsLeft s generalizing s with
  | zero => exact absurd (phase_indexed_iff.2 hk) h.phase_ne
  | succ k ih =>
    obtain ⟨t, hstep, hleft, hdone⟩ := step_building h
    have hleft : stepsLeft t = k := by omega
    rw [run_succ hstep]
    by_cases hp : t.phase = .indexed
    · obtain rfl : k = 0 := hleft.symm.trans (phase_indexed_iff.1 hp)
      exact ⟨t, rfl, hp, hdone hp⟩
    · exact ih (building_step h hstep hp) hleft

/-- Settles O54, by the number of steps left. -/
theorem buildTakesItsSteps : Obligations.BuildTakesItsSteps := by
  intro s hs hp hb hl hh
  have h : Building s := ⟨hs, by rw [hp]; decide, hb, hl, hh⟩
  rw [← stepsLeft_empty hp]
  refine ⟨run_building_stepsLeft h, fun k hk => ?_⟩
  obtain ⟨t, hrun, ht⟩ := run_building_lt h hk
  exact ⟨t, hrun, ht.busy, ht.phase_ne⟩

end Sys2Proof.Machine
end

section
/-! PROOFS of the statement that BUILD's result is a function of FREQ alone (R188): two states that agree in what BUILD
reads and makes are kept in agreement by each of its micro-steps. -/

namespace Sys2Proof.Machine

/-! ### Agreement of two states -/

/-- Two states hold the same code book, but for CB_CW of absent symbols, which has no defined value (R60). -/
structure SameBook (s u : State) : Prop where
  cbLen : s.cbLen = u.cbLen
  compBits : s.compBits = u.compBits
  cbCw : ∀ x, cbLenOf s x ≠ 0 → cbCwOf s x = cbCwOf u x

/-- Two states agree in everything BUILD reads and makes, but for the records at and above NODE_CNT, which have no
defined value (R56). -/
structure SameBuild (s u : State) : Prop where
  freq : s.freq = u.freq
  phase : s.phase = u.phase
  nodeCnt : s.nodeCnt = u.nodeCnt
  inq : s.inq = u.inq
  root : s.root = u.root
  record : ∀ i : NodeIdx, i.val < s.nodeCnt.val → s.node[i] = u.node[i]
  book : SameBook s u

/-- An empty code book is the same in any two states. -/
theorem sameBook_of_empty {s u : State} (hs : CodeEmpty s) (hu : CodeEmpty u) : SameBook s u := by
  obtain ⟨hbits, hlen, -⟩ := hs
  obtain ⟨hbits', hlen', -⟩ := hu
  exact ⟨hlen.trans hlen'.symm, hbits.trans hbits'.symm, fun x hx => absurd (by simp [cbLenOf, hlen]) hx⟩

/-- In EMPTY FREQ is all that BUILD reads. -/
theorem sameBuild_of_empty {s u : State} (hfreq : s.freq = u.freq) (hp : s.phase = .empty) (hp' : u.phase = .empty)
    (hs : QuietOutsideBuild s) (hu : QuietOutsideBuild u) : SameBuild s u := by
  obtain ⟨hcnt, hinq, hroot, hcode⟩ := hs
  obtain ⟨hcnt', hinq', hroot', hcode'⟩ := hu
  have hcnt := hcnt hp
  refine ⟨hfreq, hp.trans hp'.symm, Fin.ext (hcnt.trans (hcnt' hp').symm), ?_, ?_, fun i hi => ?_,
    sameBook_of_empty (hcode (by rw [hp]; decide)) (hcode' (by rw [hp']; decide))⟩
  · rw [hinq (by rw [hp]; rfl), hinq' (by rw [hp']; rfl)]
  · rw [hroot (by rw [hp]; rfl), hroot' (by rw [hp']; rfl)]
  · omega

/-! ### SEED keeps the agreement (R175) -/

theorem inq_eq_of_inQueue {s u : State} (h : ∀ i, inQueue s i = inQueue u i) : s.inq = u.inq :=
  BitVec.eq_of_getLsbD_eq fun i hi => h ⟨i, hi⟩

theorem inQueue_congr {s u : State} (h : s.inq = u.inq) (i : NodeIdx) : inQueue s i = inQueue u i := by
  rw [inQueue, h, inQueue]

theorem queue_congr {s u : State} (h : s.inq = u.inq) : queue s = queue u := by
  simp only [queue, inQueue_congr h]

/-- SEED places the same leaves in both states. -/
theorem sameBuild_seedStep {s u : State} (h : SameBuild s u) : SameBuild (seedStep s) (seedStep u) := by
  obtain ⟨hcnt, hnode, -, hq⟩ := seedStep_spec s
  obtain ⟨hcnt', hnode', -, hq'⟩ := seedStep_spec u
  obtain ⟨_, _, _, e⟩ := seedStep_frame s
  obtain ⟨_, _, _, e'⟩ := seedStep_frame u
  have hpresent : present u = present s := present_congr h.freq.symm
  rw [hpresent] at hcnt' hnode' hq'
  refine ⟨?_, ?_, Fin.ext (hcnt.trans hcnt'.symm), inq_eq_of_inQueue fun i => ?_, ?_, fun i hi => ?_, ?_⟩
  · rw [seedStep_freq, seedStep_freq, h.freq]
  · rw [e, e']
  · rw [hq, hq', inQueue_congr h.inq]
  · rw [e, e']
    exact h.root
  · have hx : (present s)[i.val]? = some _ := List.getElem?_eq_getElem (hcnt ▸ hi)
    rw [hnode i _ hx, hnode' i _ hx, freqOf_congr h.freq]
  · rw [e, e']
    exact ⟨h.book.cbLen, h.book.compBits, h.book.cbCw⟩

/-! ### MERGE and ROOT keep the agreement (R177, R181) -/

/-- The same record put at NODE_CNT keeps the records up to it the same. -/
theorem sameRecord_set {node node' : Vector NodeRec 511} {p : NodeIdx}
    (h : ∀ i : NodeIdx, i.val < p.val → node[i] = node'[i]) (n : NodeRec) (i : NodeIdx) (hi : i.val < p.succ.val) :
    (node.set p.val n p.isLt)[i] = (node'.set p.val n p.isLt)[i] := by
  rcases Nat.lt_succ_iff_lt_or_eq.1 hi with hlt | heq
  · rw [getElem_set_below hlt, getElem_set_below hlt, h i hlt]
  · obtain rfl : i = p := Fin.ext heq
    rw [getElem_set_at, getElem_set_at]

section Queued

variable {s u : State} (h : SameBuild s u) (halloc : ∀ i : NodeIdx, inQueue s i = true → i.val < s.nodeCnt.val)
include h halloc

theorem weightOf_queued {i : NodeIdx} (hi : inQueue s i = true) : weightOf s i = weightOf u i := by
  rw [weightOf, h.record i (halloc i hi), weightOf]

theorem isLeaf_queued {i : NodeIdx} (hi : inQueue s i = true) : isLeaf s i = isLeaf u i := by
  rw [isLeaf, h.record i (halloc i hi), isLeaf]

theorem keyLe_queued {i j : NodeIdx} (hi : inQueue s i = true) (hj : inQueue s j = true) :
    keyLe s i j = keyLe u i j := by
  rw [keyLe, weightOf_queued h halloc hi, weightOf_queued h halloc hj, keyLe]

/-- The two nodes that MERGE removes are the same in both states. -/
theorem leastPair_congr {a b : NodeIdx} (hab : LeastPair s a b) : LeastPair u a b := by
  have hq := inQueue_congr h.inq
  have hkey : ∀ {i j}, inQueue s i = true → inQueue u j = true → keyLe s i j = true → keyLe u i j = true :=
    fun hi hj hle => keyLe_queued h halloc hi (hq _ ▸ hj) ▸ hle
  exact ⟨hq a ▸ hab.first_queued, fun i hi => hkey hab.first_queued hi (hab.first_least i (hq i ▸ hi)),
    hq b ▸ hab.second_queued, hab.second_ne,
    fun i hi hne => hkey hab.second_queued hi (hab.second_least i (hq i ▸ hi) hne)⟩

/-- MERGE and ROOT do the same in both states, by how many nodes are queued and what a lone one is. -/
theorem sameBuild_mergeOrRoot {s' u' : State} (hp : queueing s.phase = true) (hn : NodesCounted s)
    (hs' : mergeOrRoot s = .next s') (hu' : mergeOrRoot u = .next u') : SameBuild s' u' := by
  have hqueue := queue_congr h.inq
  rcases queue_cases s with hq | ⟨r, hq⟩ | ⟨a, b, hab⟩
  · cases (mergeOrRoot_of_nil hq).symm.trans hs'
    cases (mergeOrRoot_of_nil (hqueue ▸ hq)).symm.trans hu'
    exact ⟨h.freq, rfl, h.nodeCnt, h.inq, rfl, h.record, h.book.cbLen, h.book.compBits, h.book.cbCw⟩
  · have hr : inQueue s r = true := (queue_eq_singleton.1 hq r).2 rfl
    have hleaf := isLeaf_queued h halloc hr
    cases hl : isLeaf s r with
    | false =>
      cases (mergeOrRoot_of_internal hq hl).symm.trans hs'
      cases (mergeOrRoot_of_internal (hqueue ▸ hq) (hleaf ▸ hl)).symm.trans hu'
      exact ⟨h.freq, rfl, h.nodeCnt, rfl, rfl, h.record, h.book.cbLen, h.book.compBits, h.book.cbCw⟩
    | true =>
      obtain ⟨p, hfree⟩ := free_record_of_leaf hp hn hq hl
      cases (mergeOrRoot_of_leaf hq hl hfree).symm.trans hs'
      cases (mergeOrRoot_of_leaf (hqueue ▸ hq) (hleaf ▸ hl) (h.nodeCnt ▸ hfree)).symm.trans hu'
      rw [← weightOf_queued h halloc hr]
      exact ⟨h.freq, rfl, rfl, rfl, rfl, sameRecord_set (fun i hi => h.record i (hfree ▸ hi)) _, h.book.cbLen,
        h.book.compBits, h.book.cbCw⟩
  · obtain ⟨p, hfree⟩ := free_record_of_leastPair hp hn hab
    cases (mergeOrRoot_of_leastPair hab hfree).symm.trans hs'
    cases (mergeOrRoot_of_leastPair (leastPair_congr h halloc hab) (h.nodeCnt ▸ hfree)).symm.trans hu'
    rw [← weightOf_queued h halloc hab.first_queued, ← weightOf_queued h halloc hab.second_queued]
    refine ⟨h.freq, rfl, rfl, ?_, h.root, sameRecord_set (fun i hi => h.record i (hfree ▸ hi)) _, h.book.cbLen,
      h.book.compBits, h.book.cbCw⟩
    simp [h.inq]

end Queued

/-! ### INDEX keeps the agreement (R183) -/

/-- The traversal from an allocated node reads allocated records alone. -/
theorem leafPaths_congr {node node' : Vector NodeRec 511} {k : Nat}
    (hrecord : ∀ i : NodeIdx, i.val < k → node[i] = node'[i])
    (hbelow : ∀ i : NodeIdx, i.val < k → childrenBelow i.val node[i] = true) (n : Nat) (i : NodeIdx)
    (hi : i.val < k) : leafPaths n node i = leafPaths n node' i := by
  induction n generalizing i with
  | zero => rfl
  | succ n ih =>
    have hrec := hrecord i hi
    have hb := hbelow i hi
    cases he : node[i] with
    | leaf x w => rw [leafPaths_leaf _ he, leafPaths_leaf _ (hrec ▸ he)]
    | internal w l r =>
      rw [he] at hb
      have side : ∀ b, leavesUnder (leafPaths n node) b (child b l r) =
          leavesUnder (leafPaths n node') b (child b l r) := by
        intro b
        cases hc : child b l r with
        | none => rfl
        | some j => rw [leavesUnder, ih j ((child_lt hb b j hc).trans hi), leavesUnder]
      have hl : leavesUnder (leafPaths n node) false l = leavesUnder (leafPaths n node') false l := side false
      have hr : leavesUnder (leafPaths n node) true r = leavesUnder (leafPaths n node') true r := side true
      ext1 all
      rw [leafPaths_internal _ he, leafPaths_internal _ (hrec ▸ he), hl, hr]

/-- The traversal from ROOT is the same in both states. -/
theorem treeLeaves_congr {s u : State} (h : SameBuild s u) (hs : TreeShaped s) : treeLeaves s = treeLeaves u := by
  obtain ⟨-, hbelow, hroot, -⟩ := hs
  unfold treeLeaves
  rw [← h.root]
  cases hr : s.root with
  | none => rfl
  | some r => exact leafPaths_congr h.record hbelow 256 r (hroot r hr).1

/-- A recorded leaf has the same entry in both books. -/
theorem sameBook_recordLeaf {s u : State} (h : SameBook s u) (p : LeafPath) :
    SameBook (recordLeaf s p) (recordLeaf u p) := by
  refine ⟨?_, ?_, fun x hx => ?_⟩
  · rw [recordLeaf_cbLen, recordLeaf_cbLen, h.cbLen]
  · rw [recordLeaf_compBits, recordLeaf_compBits, h.compBits]
  · rw [cbLenOf_recordLeaf] at hx
    rw [cbCwOf_recordLeaf, cbCwOf_recordLeaf]
    split
    · rfl
    · rename_i hne
      rw [if_neg hne] at hx
      exact h.cbCw x hx

theorem sameBook_foldl_recordLeaf (ls : List LeafPath) {s u : State} (h : SameBook s u) :
    SameBook (ls.foldl recordLeaf s) (ls.foldl recordLeaf u) := by
  induction ls generalizing s u with
  | nil => exact h
  | cons p ls ih => exact ih (sameBook_recordLeaf h p)

theorem sameBook_emptyBook (s u : State) : SameBook (emptyBook s) (emptyBook u) :=
  ⟨rfl, rfl, fun x hx => absurd (cbLenOf_emptyBook s x) hx⟩

/-- INDEX records the same leaves in both states. -/
theorem sameBuild_indexStep {s u s' u' : State} (h : SameBuild s u) (hs : TreeShaped s) (hs' : indexStep s = .next s')
    (hu' : indexStep u = .next u') : SameBuild s' u' := by
  obtain ⟨ls, hl, rfl⟩ := indexStep_next hs'
  obtain ⟨ks, hk, rfl⟩ := indexStep_next hu'
  rw [← treeLeaves_congr h hs, hl] at hk
  obtain rfl := Option.some.inj hk
  obtain ⟨hlen, hbits, hcw⟩ := sameBook_foldl_recordLeaf ls (sameBook_emptyBook s u)
  have hframe := foldl_recordLeaf_frame ls (emptyBook s)
  have hframe' := foldl_recordLeaf_frame ls (emptyBook u)
  refine ⟨?_, rfl, ?_, ?_, ?_, ?_, hlen, hbits, hcw⟩ <;> rw [hframe, hframe']
  · exact h.freq
  · exact h.nodeCnt
  · exact h.inq
  · exact h.root
  · exact h.record

/-! ### BUILD's run -/

/-- Each micro-step of BUILD keeps the agreement. -/
theorem sameBuild_exec_build {s u s' u' : State} (h : SameBuild s u) (hs : Safe s) (hp : s.phase ≠ .indexed)
    (hs' : exec .build s = .next s') (hu' : exec .build u = .next u') : SameBuild s' u' := by
  obtain ⟨-, -, -, htree, -, -, hnodes, -⟩ := hs
  have ⟨halloc, _⟩ := htree
  have hphase := h.phase
  rcases execBuild_cases hs' with ⟨hps, rfl⟩ | ⟨hps, hms⟩ | ⟨hps, his⟩ | ⟨hps, -⟩
  · cases (exec_build_of_empty (hphase ▸ hps)).symm.trans hu'
    exact sameBuild_seedStep h
  · rw [exec_build_of_queueing (hphase ▸ hps)] at hu'
    exact sameBuild_mergeOrRoot h halloc hps hnodes hms hu'
  · rw [exec_build_of_rooted (hphase ▸ hps)] at hu'
    exact sameBuild_indexStep h htree his hu'
  · exact absurd hps hp

/-- BUILD's runs from two states that agree stay in agreement to its last step. -/
theorem sameBuild_run {s u s' u' : State} {k : Nat} (h : SameBuild s u) (hs : Building s) (hu : Building u)
    (hk : k ≤ stepsLeft s) (hs' : Sys2Proof.core.run k s = .next s') (hu' : Sys2Proof.core.run k u = .next u') :
    SameBuild s' u' := by
  induction k generalizing s u with
  | zero =>
    cases hs'
    cases hu'
    exact h
  | succ k ih =>
    obtain ⟨t, ht, hleft, -⟩ := step_building hs
    obtain ⟨v, hv, -⟩ := step_building hu
    have hsame : SameBuild t v := sameBuild_exec_build h hs.safe hs.phase_ne ((step_of_building hs).symm.trans ht)
      ((step_of_building hu).symm.trans hv)
    rw [run_succ ht] at hs'
    rw [run_succ hv] at hu'
    by_cases hp : t.phase = .indexed
    · obtain rfl : k = 0 := by
        have := phase_indexed_iff.1 hp
        omega
      cases hs'
      cases hu'
      exact hsame
    · exact ih hsame (building_step hs ht hp) (building_step hu hv (hsame.phase ▸ hp)) (by omega) hs' hu'

/-- Settles O55: in EMPTY the same FREQ is agreement, and every step of BUILD keeps it. -/
theorem buildDependsOnFreqAlone : Obligations.BuildDependsOnFreqAlone := by
  intro s u s' u' k hs hu hfreq hp hb hl hh hp' hb' hl' hh' hk hrun hrun'
  have ⟨_, _, hquiet, _⟩ := hs
  have ⟨_, _, hquiet', _⟩ := hu
  have hne : ∀ {v : State}, v.phase = .empty → v.phase ≠ .indexed := fun h => by rw [h]; decide
  have h := sameBuild_run (sameBuild_of_empty hfreq hp hp' hquiet hquiet') ⟨hs, hne hp, hb, hl, hh⟩
    ⟨hu, hne hp', hb', hl', hh'⟩ (stepsLeft_empty hp ▸ hk) hrun hrun'
  exact ⟨h.phase, h.nodeCnt, h.inq, h.root, h.record, h.book.cbLen, h.book.compBits, h.book.cbCw⟩

end Sys2Proof.Machine
end

section
/-! PROOFS of the statements about the codec commands (spec/43_codec.md): the gate outside INDEXED, what DECODE_BIT does
by where its bit leads the walk, and that decoding the bits a text's encoding emitted gives back the text. -/

namespace Sys2Proof.Machine

/-! ### The gate (R210) -/

theorem codecGate_of_not_indexed {s : State} (hp : s.phase ≠ .indexed) (o : Host.Outcome State Fault Refusal) :
    codecGate s o = .next (raise .uninitialized s) :=
  if_pos hp

/-- Settles O33: each of the six commands is its body behind the gate. -/
theorem codecNeedsIndexed : Obligations.CodecNeedsIndexed := by
  rintro i s hp (⟨x, rfl⟩ | ⟨x, rfl⟩ | rfl | ⟨b, rfl⟩ | rfl | rfl) <;> exact codecGate_of_not_indexed hp _

/-! ### Where a bit leads the walk (R238) -/

section Walk
variable {b : Bool} {s : State} {c n : NodeIdx} {w v : Word} {l r : NodeRef} {x : Symbol}

theorem walkMove_of_dead (hd : s.walkDead = true) : walkMove b s = .stayDead := by
  simp [walkMove, hd]

theorem walkMove_of_null (hd : s.walkDead = false) (hc : s.walkNode = none) : walkMove b s = .die := by
  simp [walkMove, hd, hc]

theorem walkMove_of_leaf (hd : s.walkDead = false) (hc : s.walkNode = some c) (hl : isLeaf s c = true) :
    walkMove b s = .die := by
  obtain ⟨x, w, hrec⟩ := isLeaf_eq_true.1 hl
  simp [walkMove, hd, hc, hrec]

theorem walkMove_of_nullChild (hd : s.walkDead = false) (hc : s.walkNode = some c) (hi : s.node[c] = .internal w l r)
    (hn : child b l r = none) : walkMove b s = .die := by
  simp [walkMove, hd, hc, hi, hn]

theorem walkMove_of_leafChild (hd : s.walkDead = false) (hc : s.walkNode = some c) (hi : s.node[c] = .internal w l r)
    (hn : child b l r = some n) (hx : s.node[n] = .leaf x v) : walkMove b s = .found x := by
  simp [walkMove, hd, hc, hi, hn, hx]

theorem walkMove_of_internalChild (hd : s.walkDead = false) (hc : s.walkNode = some c)
    (hi : s.node[c] = .internal w l r) (hn : child b l r = some n) (hl : isLeaf s n = false) :
    walkMove b s = .moveTo n := by
  obtain ⟨u, l', r', hrec⟩ := isLeaf_eq_false.1 hl
  simp [walkMove, hd, hc, hi, hn, hrec]

/-! ### DECODE_BIT by its move (R238, R240, R241) -/

theorem exec_decodeBit_of_indexed (hp : s.phase = .indexed) :
    exec (.decodeBit b) s = .next (finish (decodeBit b s)) :=
  codecGate_of_indexed hp _

theorem exec_decodeBit_of_stayDead (hp : s.phase = .indexed) (hm : walkMove b s = .stayDead) :
    exec (.decodeBit b) s = .next (finish (showSymbol none s)) := by
  rw [exec_decodeBit_of_indexed hp, decodeBit, hm]

theorem exec_decodeBit_of_die (hp : s.phase = .indexed) (hm : walkMove b s = .die) :
    exec (.decodeBit b) s = .next (finish { showSymbol none s with walkDead := true }) := by
  rw [exec_decodeBit_of_indexed hp, decodeBit, hm]

theorem exec_decodeBit_of_found (hp : s.phase = .indexed) (hm : walkMove b s = .found x) :
    exec (.decodeBit b) s = .next (finish { emitDec [x] (showSymbol (some x) s) with walkNode := s.root }) := by
  rw [exec_decodeBit_of_indexed hp, decodeBit, hm]

theorem exec_decodeBit_of_moveTo (hp : s.phase = .indexed) (hm : walkMove b s = .moveTo n) :
    exec (.decodeBit b) s = .next (finish { showSymbol none s with walkNode := some n }) := by
  rw [exec_decodeBit_of_indexed hp, decodeBit, hm]

end Walk

/-- Settles O37: where the bit leads decides the move, and the move decides the next state. -/
theorem decodeBitMovesTheWalk : Obligations.DecodeBitMovesTheWalk := by
  intro b s hp quiet
  refine ⟨fun hd => ?dead, fun hd hc => ?null, fun c hd hc hl => ?leaf, fun c w l r hd hc hi =>
    ⟨fun hn => ?nullChild, fun n x v hn hx => ?leafChild, fun n hn hl => ?internalChild⟩⟩
  case dead => exact exec_decodeBit_of_stayDead hp (walkMove_of_dead hd)
  case null => exact exec_decodeBit_of_die hp (walkMove_of_null hd hc)
  case leaf => exact exec_decodeBit_of_die hp (walkMove_of_leaf hd hc hl)
  case nullChild => exact exec_decodeBit_of_die hp (walkMove_of_nullChild hd hc hi hn)
  case leafChild => exact exec_decodeBit_of_found hp (walkMove_of_leafChild hd hc hi hn hx)
  case internalChild => exact exec_decodeBit_of_moveTo hp (walkMove_of_internalChild hd hc hi hn hl)

/-! ### The reverse lookup, bit by bit (R228, R229) -/

section Lookup
variable {node : Vector NodeRec 511} {i : NodeIdx} {w : Word} {l r : NodeRef} {bits : List Bool} {x y : Symbol}

theorem symbolAt_null (node : Vector NodeRec 511) (bits : List Bool) : symbolAt node none bits = none := by
  cases bits <;> rfl

/-- From a leaf no bit is consumable. -/
theorem symbolAt_leaf (h : node[i] = .leaf y w) (hx : symbolAt node (some i) bits = some x) : bits = [] ∧ y = x := by
  cases bits with
  | nil => simpa [symbolAt, h] using hx
  | cons b bits => simp [symbolAt, h] at hx

/-- From an internal node a symbol is found by following the first bit to a child. -/
theorem symbolAt_internal (h : node[i] = .internal w l r) (hx : symbolAt node (some i) bits = some x) :
    ∃ b rest j, bits = b :: rest ∧ child b l r = some j ∧ symbolAt node (some j) rest = some x := by
  cases bits with
  | nil => simp [symbolAt, h] at hx
  | cons b rest =>
    simp only [symbolAt, h] at hx
    cases hc : child b l r with
    | none =>
      rw [hc, symbolAt_null] at hx
      cases hx
    | some j => exact ⟨b, rest, j, rfl, hc, hc ▸ hx⟩

end Lookup

/-! ### Encoding and decoding a text (R223, R239, R245, R246) -/

theorem runCommands_append {is js : List Instr} {s t : State} (h : runCommands is s = .next t) :
    runCommands (is ++ js) s = runCommands js t := by
  induction is generalizing s with
  | nil =>
    cases h
    rfl
  | cons i is ih =>
    rw [runCommands] at h
    split at h
    · rename_i u hu
      rw [List.cons_append, runCommands_cons hu, ih h]
    · cases h
    · cases h

theorem atRest_iff {s : State} : atRest s = true ↔ s.walkNode = s.root ∧ s.walkDead = false := by
  simp [atRest]

/-- Encoding a text appends its codewords, one after another, to ENC_OUT (R223). -/
theorem runCommands_encodeSym (text : List Symbol) {s : State} (hp : s.phase = .indexed) :
    ∃ res err busy, runCommands (text.map Instr.encodeSym) s =
      .next { s with res := res, encOut := s.encOut ++ text.flatMap (bookCodeword s), err := err, busy := busy } := by
  induction text generalizing s with
  | nil => exact ⟨s.res, s.err, s.busy, by simp [runCommands]⟩
  | cons x text ih =>
    have hstep : exec (.encodeSym x) s = .next (finish (emitEnc (bookCodeword s x) (showCodeword x s))) :=
      codecGate_of_indexed hp _
    obtain ⟨res, err, busy, hrun⟩ := ih (s := finish (emitEnc (bookCodeword s x) (showCodeword x s))) hp
    refine ⟨res, err, busy, (runCommands_cons hstep _).trans (hrun.trans ?_)⟩
    rw [List.flatMap_cons, ← List.append_assoc]
    rfl

/-- Bits that lead from the walk's node, an internal one, to a leaf emit the leaf's symbol and return the walk to ROOT
(R239). -/
theorem runCommands_decodeBit_path {bits : List Bool} {s : State} {i : NodeIdx} {x : Symbol} (hp : s.phase = .indexed)
    (hd : s.walkDead = false) (hc : s.walkNode = some i) (hl : isLeaf s i = false)
    (hx : symbolAt s.node (some i) bits = some x) :
    ∃ res, runCommands (bits.map Instr.decodeBit) s =
      .next { s with
        res := res, decOut := s.decOut ++ [x], walkNode := s.root, err := .ok, busy := false } := by
  induction bits generalizing s i with
  | nil =>
    obtain ⟨w, l, r, hi⟩ := isLeaf_eq_false.1 hl
    obtain ⟨b, rest, j, ⟨⟩, -, -⟩ := symbolAt_internal hi hx
  | cons b rest ih =>
    obtain ⟨w, l, r, hi⟩ := isLeaf_eq_false.1 hl
    obtain ⟨b, rest, j, ⟨rfl, rfl⟩, hn, hx⟩ := symbolAt_internal hi hx
    cases hj : s.node[j] with
    | leaf y v =>
      obtain ⟨rfl, rfl⟩ := symbolAt_leaf hj hx
      exact ⟨_, runCommands_cons (exec_decodeBit_of_found hp (walkMove_of_leafChild hd hc hi hn hj)) []⟩
    | internal v l' r' =>
      have hlj : isLeaf s j = false := isLeaf_eq_false.2 ⟨v, l', r', hj⟩
      obtain ⟨res, hrun⟩ := ih (s := finish { showSymbol none s with walkNode := some j }) hp hd rfl hlj hx
      have hstep := exec_decodeBit_of_moveTo hp (walkMove_of_internalChild hd hc hi hn hlj)
      exact ⟨res, (runCommands_cons hstep _).trans hrun⟩

/-- From rest at an internal root, the concatenation of bit strings that each lead to a symbol emits the symbols in
order and leaves the walk at rest: each symbol's end is known from its bits alone (R245, R246). -/
theorem runCommands_decodeBit_text (code : Symbol → List Bool) (text : List Symbol) {s : State}
    (hp : s.phase = .indexed) (hrest : atRest s = true) (hroot : ∀ r ∈ s.root, isLeaf s r = false)
    (hcode : ∀ x ∈ text, symbolAt s.node s.root (code x) = some x) :
    ∃ u, runCommands ((text.flatMap code).map Instr.decodeBit) s = .next u ∧ u.decOut = s.decOut ++ text ∧
      atRest u = true := by
  induction text generalizing s with
  | nil => exact ⟨s, rfl, (List.append_nil _).symm, hrest⟩
  | cons x text ih =>
    obtain ⟨hx, hcode⟩ := List.forall_mem_cons.1 hcode
    obtain ⟨hnode, hd⟩ := atRest_iff.1 hrest
    cases hr : s.root with
    | none =>
      rw [hr, symbolAt_null] at hx
      cases hx
    | some r =>
      obtain ⟨res, hrun⟩ := runCommands_decodeBit_path hp hd (hnode.trans hr) (hroot r hr) (hr ▸ hx)
      obtain ⟨u, hu, hout, hrest⟩ := ih
        (s := { s with res := res, decOut := s.decOut ++ [x], walkNode := s.root, err := .ok, busy := false })
        hp (atRest_iff.2 ⟨rfl, hd⟩) hroot hcode
      refine ⟨u, ?_, by rw [hout, List.append_assoc, List.singleton_append], hrest⟩
      rw [List.flatMap_cons, List.map_append, runCommands_append hrun, hu]

/-- Settles O58: encoding leaves the tree and the walk, and each codeword leads from ROOT to its symbol's leaf. -/
theorem decodeOfEncodedText : Obligations.DecodeOfEncodedText := by
  rintro s text ⟨-, -, -, ⟨-, -, hroot, -, -⟩, -, -, -, hbook⟩ hp hrest hpresent
  obtain ⟨res, err, busy, hencode⟩ := runCommands_encodeSym text hp
  obtain ⟨u, hdecode, hout, hatRest⟩ := runCommands_decodeBit_text (bookCodeword s) text
    (s := { s with res := res, encOut := s.encOut ++ text.flatMap (bookCodeword s), err := err, busy := busy })
    hp hrest (fun r hr => (hroot r hr).2) (fun x hx => symbolAt_bookCodeword hbook hp (hpresent x hx))
  exact ⟨_, u, _, hencode, rfl, rfl, hdecode, hout, hatRest⟩

end Sys2Proof.Machine
end

section
/-! PROOFS of the statement about a command that ends with an error (spec/60_exceptions.md R275). -/

namespace Sys2Proof.Machine

/-- Settles O41, by the command's effect: one that finishes leaves ERR = 0, and one that goes on leaves BUSY = 1. -/
theorem errorsChangeNothingElse : Obligations.ErrorsChangeNothingElse := by
  intro i s t hb h ht herr
  have hgoesOn : ¬ (mergeOrRoot s = .next t ∨ t = seedStep s) := by
    intro hbuild
    rw [busy_of_build hbuild, hb] at ht
    cases ht
  cases commandEffect_of_exec h with
  | refused => exact .inl rfl
  | discarded => exact .inr ⟨rfl, rfl, rfl⟩
  | shown | encoded | cleared | counted | booked | decoded | flushed => exact absurd (finish_err _) herr
  | seeded => exact absurd (.inr rfl) hgoesOn
  | merged _ hm => exact absurd (.inl hm) hgoesOn

end Sys2Proof.Machine
end

section
/-! PROOFS of the statement about a reset in the middle of a command (spec/70_reset_and_hazards.md R300, R301): the
events a reset may leave are those of the latched command's own step. -/

namespace Sys2Proof.Machine

/-! ### The pending events -/

/-- No bits are pending unless ENCODE_SYM is latched in INDEXED (R64). -/
theorem pendingEnc_eq_nil {s : State}
    (h : s.busy = true → s.phase = .indexed → ∀ x, decode s.cmdLatch ≠ .ok (.encodeSym x)) : pendingEnc s = [] := by
  unfold pendingEnc
  split
  · rename_i x hb hp hd
    exact absurd hd (h hb hp x)
  · rfl

/-- No symbol is pending unless DECODE_BIT is latched in INDEXED (R64). -/
theorem pendingDec_eq_nil {s : State}
    (h : s.busy = true → s.phase = .indexed → ∀ b, decode s.cmdLatch ≠ .ok (.decodeBit b)) : pendingDec s = [] := by
  unfold pendingDec
  split
  · rename_i b hb hp hd
    exact absurd hd (h hb hp b)
  · rfl

theorem pendingEnc_encodeSym {s : State} {x : Symbol} (hb : s.busy = true) (hp : s.phase = .indexed)
    (hd : decode s.cmdLatch = .ok (.encodeSym x)) : pendingEnc s = bookCodeword s x := by
  simp only [pendingEnc, hb, hp, hd]

/-- The pending symbol of DECODE_BIT is the one its move finds (R238). -/
theorem decodeBit_decOut {s : State} {b : Bool} (hb : s.busy = true) (hp : s.phase = .indexed)
    (hd : decode s.cmdLatch = .ok (.decodeBit b)) : (decodeBit b s).decOut = s.decOut ++ pendingDec s := by
  simp only [pendingDec, decodeBit, hb, hp, hd]
  cases walkMove b s with
  | found x => rfl
  | stayDead | die | moveTo i => exact (List.append_nil _).symm

/-! ### The latched command emits its pending events -/

/-- The bits the latched command appends to ENC_OUT are the pending ones (R221, R301). -/
theorem encOut_of_exec_latched {i : Instr} {s v : State} (hb : s.busy = true) (hd : decode s.cmdLatch = .ok i)
    (h : exec i s = .next v) : v.encOut = s.encOut ++ pendingEnc s := by
  by_cases hi : ∃ x, i = .encodeSym x
  · obtain ⟨x, rfl⟩ := hi
    rcases codecGate_next h with ⟨hp, rfl⟩ | ⟨hp, h⟩
    · rw [pendingEnc_eq_nil fun _ hindexed => absurd hindexed hp, List.append_nil, raise_encOut]
    · cases h
      rw [pendingEnc_encodeSym hb hp hd]
      rfl
  · have hother : ∀ x, i ≠ .encodeSym x := not_exists.1 hi
    have hnil : pendingEnc s = [] := pendingEnc_eq_nil fun _ _ x hx => hother x (Except.ok.inj (hd.symm.trans hx))
    rw [hnil, List.append_nil, (portsOnlyGrow.2 i s v h).1 hother]

/-- The symbols the latched command appends to DEC_OUT are the pending ones (R238, R301). -/
theorem decOut_of_exec_latched {i : Instr} {s v : State} (hb : s.busy = true) (hd : decode s.cmdLatch = .ok i)
    (h : exec i s = .next v) : v.decOut = s.decOut ++ pendingDec s := by
  by_cases hi : ∃ b, i = .decodeBit b
  · obtain ⟨b, rfl⟩ := hi
    rcases codecGate_next h with ⟨hp, rfl⟩ | ⟨hp, h⟩
    · rw [pendingDec_eq_nil fun _ hindexed => absurd hindexed hp, List.append_nil, raise_decOut]
    · cases h
      rw [finish_decOut, decodeBit_decOut hb hp hd]
  · have hother : ∀ b, i ≠ .decodeBit b := not_exists.1 hi
    have hnil : pendingDec s = [] := pendingDec_eq_nil fun _ _ b hx => hother b (Except.ok.inj (hd.symm.trans hx))
    rw [hnil, List.append_nil, (portsOnlyGrow.2 i s v h).2 hother]

/-- A reset line's step appends the first `landed` pending events to each port (R301). -/
theorem ports_of_step_reset {s : State} {landed : Nat} {rest : List HostLine} (ht : turn s = some .host)
    (hh : s.host = .reset landed :: rest) :
    ∃ t, step s = .next t ∧ t.encOut = s.encOut ++ (pendingEnc s).take landed ∧
      t.decOut = s.decOut ++ (pendingDec s).take landed := by
  obtain ⟨l, hstep⟩ := step_reset ht hh
  exact ⟨_, hstep, ports_of_hostReset landed { s with schedule := l, host := rest }⟩

/-- Settles O21: reset appends the first pending events, which are what the latched command appends in its step; none
are pending with BUSY = 0 or an illegal word latched. -/
theorem resetKeepsAnyPrefixOfTheEvents : Obligations.ResetKeepsAnyPrefixOfTheEvents := by
  intro s landed rest ht hh
  obtain ⟨t, hstep, henc, hdec⟩ := ports_of_step_reset ht hh
  have silent (hnone : s.busy = true → ∀ i, decode s.cmdLatch ≠ .ok i) : t.encOut = s.encOut ∧ t.decOut = s.decOut := by
    rw [henc, hdec, pendingEnc_eq_nil fun hb _ _ => hnone hb _, pendingDec_eq_nil fun hb _ _ => hnone hb _]
    simp
  refine ⟨t, hstep, fun i v hb hd h => ⟨?_, ?_⟩, fun hidle => silent ?_, fun e he => silent ?_⟩
  · rw [henc, encOut_of_exec_latched hb hd h, List.drop_left]
  · rw [hdec, decOut_of_exec_latched hb hd h, List.drop_left]
  · simp [hidle]
  · simp [he]

end Sys2Proof.Machine
end
